-- ==== Sys2Proof/Word.lean ====
section
/-! DEFINITION. The word types of the block (spec/00_scope.md R8): bytes, 16-bit words, register addresses. All
values are unsigned and bit 0 is the least significant bit. -/

namespace Sys2Proof

/-- A byte: one register of a chip, one half of a frame, one half of `BUF` (R8). -/
abbrev Byte := BitVec 8

/-- A 16-bit word: `COMB`, a `CMD16` command word, an `RSP16` response word, a `FRAME16` frame (R8). -/
abbrev Word := BitVec 16

/-- A register address inside a port-expander chip, 0x00..0x7F (R40). -/
abbrev RegAddr := BitVec 7

/-- A chip address on the select lines, 0..15 (R8, R40). -/
abbrev ChipAddr := BitVec 4

end Sys2Proof
end

