-- ==== Sys2Proof/Machine/Bits.lean ====
section
/-! DEFINITION. The pure bit primitives of spec/00_scope.md R9. -/

namespace Sys2Proof.Machine

/-- `rev8` (R9): the byte whose bit `i` is bit `7 - i` of `b`. -/
def rev8 (b : Byte) : Byte :=
  b.extractLsb' 0 1 ++ b.extractLsb' 1 1 ++ b.extractLsb' 2 1 ++ b.extractLsb' 3 1 ++
    b.extractLsb' 4 1 ++ b.extractLsb' 5 1 ++ b.extractLsb' 6 1 ++ b.extractLsb' 7 1

/-- How many of the bits below `n` are set. -/
def popcountBelow (v : Word) : Nat → Nat
  | 0 => 0
  | n + 1 => popcountBelow v n + (v.getLsbD n).toNat

/-- `popcount` (R9): the number of set bits of a 16-bit word. -/
def popcount (v : Word) : Nat := popcountBelow v 16

/-- A byte holding one bit: 0x00 or 0x01. -/
def bitByte (b : Bool) : Byte := if b then 0x01 else 0x00

end Sys2Proof.Machine
end

