-- ==== Sys2Proof/Syntax.lean ====
section
/-! DEFINITION. The value types of the block's interface (spec/00_scope.md R16) and its instructions: one
constructor for each of the 35 rows of spec/opcode_table.json (16 `CMD16` commands, 7 bus frames, 12 select codes). -/

namespace Sys2Proof

/-- `Direction` (R16): which family of chips a bank belongs to. `din` is the spec's `In`, `dout` its `Out`. -/
inductive Direction where
  | din
  | dout
deriving DecidableEq, Repr, Inhabited

/-- `Bank` = 1..6, "exactly 6 values" (R16). -/
inductive Bank where
  | b1 | b2 | b3 | b4 | b5 | b6
deriving DecidableEq, Repr, Inhabited

/-- `Level` (R16, R170): the electrical state of a line; `hiz` is `HighImpedance`, distinct from `low`. -/
inductive Level where
  | low
  | high
  | hiz
deriving DecidableEq, Repr, Inhabited

/-- `LineState` (R16): the status read-back of one output. -/
inductive LineState where
  | normal
  | openOrFault
deriving DecidableEq, Repr, Inhabited

/-- `SupplyState` (R16): output banks report `v24`, `v12`, `unpowered`; input banks `powered`, `unpowered`. -/
inductive SupplyState where
  | v24
  | v12
  | powered
  | unpowered
deriving DecidableEq, Repr, Inhabited

/-- `ThermalState` (R16). -/
inductive ThermalState where
  | normal
  | warm
  | hot
deriving DecidableEq, Repr, Inhabited

/-- The instructions: one constructor per row of spec/opcode_table.json, in the table's order.

The first sixteen are the `CMD16` commands (R81). An operand the source ranges over plain integers (a logical
address, a port number, a bit index) is the 8-bit `arg`, checked by the operation; an operand of a closed type of
the source (a bank, a direction, a level, a flag) is that type (R80, R82).

The next seven are the frames of the shared bus (R72, R77), the last twelve the codes of the select lines (R101).
They are what the block itself sends; run as an instruction, each is the one framed transaction, or the one
selection, that sends it. -/
inductive Instr where
  | init
  | setOutput (level : Level) (logical : BitVec 8)
  | getOutputState (logical : BitVec 8)
  | getOutputSupply (bank : Bank)
  | getOutputThermal (bank : Bank)
  | getInput (logical : BitVec 8)
  | getInputSupply (bank : Bank)
  | getInputThermal (bank : Bank)
  | select (direction : Direction) (bank : Bank)
  | peWritePort (level : Level) (port : BitVec 8)
  | peReadPort (port : BitVec 8)
  | peCfgOutput (initialLevel : Level) (port : BitVec 8)
  | peCfgInput (enablePullup : Bool) (port : BitVec 8)
  | peCfgBits (bits : BitVec 2) (port : BitVec 8)
  | peWakeup (enableIrq : Bool)
  | diReadBit (index : BitVec 8)
  | fPortWrite (p : BitVec 5) (d : Bool)
  | fPortReadReq (p : BitVec 5)
  | fNop
  | fCfgReadReq (q : BitVec 3)
  | fCfgWrite (q : BitVec 3) (c : BitVec 8)
  | fGcfgWrite (i : Bool)
  | direq16
  | selOut1
  | selOut2
  | selOut3
  | selOut4
  | selOut5
  | selOut6
  | selIn1
  | selIn2
  | selIn3
  | selIn4
  | selIn5
  | selIn6
deriving DecidableEq, Repr

/-- A word standing at one of the block's boundaries, tagged with the boundary (spec/30_encoding.md, opening): a
`CMD16` word on the command port, a 16-bit bus frame (`FRAME16` and `DIREQ16`, byte 0 the high byte, R71), or a
`SEL4` code for the select lines (R70). The same 16 bits mean different things at different boundaries (0x0000 is
`INIT` on the command port and `F_NOP` on the bus), so the boundary is part of the word. -/
inductive PortWord where
  | cmd (w : Word)
  | frame (w : Word)
  | sel (a : ChipAddr)
deriving DecidableEq, Repr

end Sys2Proof
end

