-- ==== Sys2Proof/Config.lean ====
section
/-! DEFINITION. The implementation parameters of spec/00_scope.md R5: the source's literals as named constants, the
spec's open choices as the record `Params` (State holds one, so that a claim over all states is a claim over all
parameter values), and the free values: constants with no body, of which nothing can be proved. -/

namespace Sys2Proof

/-! ### The source's literals (R5) -/

/-- `T_SETTLE_US`: every fixed delay in microseconds, a lower bound (R5, R242). -/
def Config.settleUs : Nat := 2

/-- `N_BANKS`: banks per direction, ordinals 1..6 (R5). -/
def Config.nBanks : Nat := 6

/-- `N_LOCAL`: channels per bank (R5). -/
def Config.nLocal : Nat := 8

/-- `N_LOGICAL`: logical addresses are 1..48 per direction (R5, R160). -/
def Config.nLogical : Nat := 48

/-- `N_SEL`: select lines, the width of a chip address (R5, R21). -/
def Config.nSel : Nat := 4

/-- `OUT_ADDR(bank)` is this minus the bank (R5, R101). -/
def Config.outAddr : Nat := 14

/-- `IN_ADDR(bank)` is this minus the bank (R5, R101). -/
def Config.inAddr : Nat := 6

/-- How many byte registers a port-expander chip has, 0x00..0x7F (R40, R62). -/
def Config.nRegs : Nat := 128

/-- `PORT_MIN` (R5). -/
def Config.portMin : Nat := 4

/-- `PORT_MAX` (R5). -/
def Config.portMax : Nat := 31

/-- The highest readable bit of a serial-input word (R40, R146). -/
def Config.indexMax : Nat := 9

/-- `PE_WRITE_BASE`: the register address of port `p` is this plus `p` (R5). -/
def Config.peWriteBase : Byte := 0x20

/-- `PE_READ_FLAG`: OR'd into the register address to request a read (R5). -/
def Config.peReadFlag : Byte := 0x80

/-- `PE_CFG_BASE`: the configuration register of port `p` is this plus `p >> 2` (R5). -/
def Config.peCfgBase : Byte := 0x08

/-- `PE_GCFG_REG`: the global configuration register (R5). -/
def Config.peGcfgReg : Byte := 0x04

/-- First byte of `DI_REQUEST` = [0x50, 0x00] (R5, R77). -/
def Config.diRequest0 : Byte := 0x50

/-- Second byte of `DI_REQUEST` (R5, R77). -/
def Config.diRequest1 : Byte := 0x00

/-- `DI_HEADER_MASK` (R5). -/
def Config.diHeaderMask : Word := 0xF800

/-- `DI_DATA_MASK` (R5). -/
def Config.diDataMask : Word := 0x03FF

/-- `DI_PARITY_BIT` (R5). -/
def Config.diParityBit : Nat := 10

/-! ### The open parameters (R5, the rows marked with a decision) -/

/-- `DI_PARITY_MODE` (R5, R144, D11): which frames the parity check accepts. -/
inductive ParityMode where
  | asImplemented
  | agreement
deriving DecidableEq, Repr, Inhabited

/-- `PE_RESP_INDEX` (R5, R76, D8): which byte of the no-operation frame's response is the register value. -/
inductive RespIndex where
  | byte0
  | byte1
deriving DecidableEq, Repr, Inhabited

/-- One diagnostic bit of an output bank (R172): the thermal port it is read at (22, or 23 when `onPort23`), and
whether each of the two levels a port reads as asserts it: any function of that one level, the constants among them. -/
structure DiagBit where
  onPort23 : Bool
  assertedLow : Bool
  assertedHigh : Bool
deriving DecidableEq, Repr, Inhabited

/-- `OUT_THERMAL_DECODE` (R172, D14) as data: a Hot bit and a Warm bit, each a function of one of the two levels. -/
structure ThermalDecode where
  hot : DiagBit
  warm : DiagBit
deriving DecidableEq, Repr, Inhabited

/-- What `OUT_SUPPLY_DECODE` may answer (R173): "one of `V24`, `V12`, `Unpowered`, never `Powered`". -/
inductive OutSupply where
  | v24
  | v12
  | unpowered
deriving DecidableEq, Repr, Inhabited

/-- `OUT_SUPPLY_DECODE` (R173, D15) as a table: the answer for (port 20 reads `High`?, port 21 reads `High`?). -/
structure SupplyDecode where
  lowLow : OutSupply
  highLow : OutSupply
  highHigh : OutSupply
  lowHigh : OutSupply
deriving DecidableEq, Repr, Inhabited

/-- The open parameters of R5. They are fixed for one machine; no step changes them. -/
structure Params where
  /-- `DI_HEADER` (C1, D10). -/
  diHeader : Word
  /-- `DI_PARITY_MODE` (C2, D11). -/
  diParityMode : ParityMode
  /-- `PE_RESP_INDEX` (D8). -/
  peRespIndex : RespIndex
  /-- `OUT_THERMAL_DECODE` (D14). -/
  outThermal : ThermalDecode
  /-- `OUT_SUPPLY_DECODE` (D15). -/
  outSupply : SupplyDecode
  /-- `INIT_ENABLE_IRQ` (D17). -/
  initEnableIrq : Bool
  /-- `EXPOSE_COMPONENT_OPS` (D23). -/
  exposeComponentOps : Bool
  /-- `PIN_DRIVE_CAN_FAIL` (D35). -/
  pinDriveCanFail : Bool
deriving DecidableEq, Repr, Inhabited

/-- The defaults of R5: header 0x5000; `AS_IMPLEMENTED`; response byte 1; port 23 the Hot bit and port 22 the Warm
bit, asserted `Low` (R172); port 20 `High` a supply, port 21 `High` the 24 V one (R173). -/
def Params.default : Params where
  diHeader := 0x5000
  diParityMode := .asImplemented
  peRespIndex := .byte1
  outThermal :=
    { hot := { onPort23 := true, assertedLow := true, assertedHigh := false }
      warm := { onPort23 := false, assertedLow := true, assertedHigh := false } }
  outSupply := { lowLow := .unpowered, highLow := .v12, highHigh := .v24, lowHigh := .v24 }
  initEnableIrq := false
  exposeComponentOps := true
  pinDriveCanFail := true

/-! ### The interface: lines, events, the environment's choices -/

/-- The six output lines (R21): four select lines, `CS`, `LOAD`. -/
inductive Line where
  | a0 | a1 | a2 | a3
  | cs
  | load
deriving DecidableEq, Repr, Inhabited

/-- The six output latches (R21): the level last driven on each line, `true` = driven high. -/
structure Lines where
  a0 : Bool
  a1 : Bool
  a2 : Bool
  a3 : Bool
  cs : Bool
  load : Bool
deriving DecidableEq, Repr, Inhabited

/-- The event alphabet of the trace (R7): a drive of a line, a delay of at least `us` microseconds, a two-byte
exchange with what was sent and received; and `XferFail`, an exchange that failed (R14, D19). -/
inductive Event where
  | pin (line : Line) (high : Bool)
  | delay (us : Nat)
  | xfer (t0 t1 r0 r1 : Byte)
  | xferFail (t0 t1 : Byte)
deriving DecidableEq, Repr

/-- An interface action whose outcome the environment chooses (R60). -/
inductive EnvAction where
  | drive (line : Line) (high : Bool)
  | xfer (t0 t1 : Byte)
deriving DecidableEq, Repr

/-- The environment's choice for one interface action (R12, R14, R60): whether it fails, and two bytes. For an
exchange they are the received bytes, or, when it fails, the draws left in `BUF` (U6); for a failed drive bit 0 of
`b0` is the draw left in the latch (U6). -/
structure EnvChoice where
  fails : Bool
  b0 : Byte
  b1 : Byte
deriving DecidableEq, Repr, Inhabited

/-- Which environment answers (R60, R61): an unconstrained oracle, or the deterministic reference responder. -/
inductive EnvMode where
  | oracle
  | reference
deriving DecidableEq, Repr, Inhabited

/-! ### Free values -/

/-- FREE VALUE (R60): the oracle beyond what State's script holds: "a function of the trace so far, the latches, the
bytes sent and a free choice" (the choice is the number of the draw). It has no body. -/
opaque Config.oracle (draw : Nat) (log : List Event) (lines : Lines) (action : EnvAction) : EnvChoice

/-- FREE VALUE: the contents of every chip register at draw number `draw`, for chips whose contents no rule describes
(R244), as (address, byte) pairs. It has no body. -/
opaque Config.freeCells (draw : Nat) : List (Nat × Byte)

/-- FREE VALUE: byte number `index` of draw number `draw`, for chip contents the rules leave open (U2, U6, U14, R63,
R121, R244). It has no body. -/
opaque Config.freeByte (draw index : Nat) : Byte

end Sys2Proof
end

