-- ==== Sys2Proof/WellFormed.lean ====
section
/-! DEFINITION. Which instructions an encoding can spell. The closed operand types leave one thing to check: the
frames of the bus name only ports 4..31 and configuration registers `q` = 1..7 (spec/30_encoding.md R72). -/

namespace Sys2Proof

/-- The port number of a port frame is 4..31 (R72, "`p` is a port number 4..31"). -/
def framePortOk (p : BitVec 5) : Bool := Config.portMin ≤ p.toNat

/-- The register number of a configuration frame is 1..7 (R72, "`qqq` = 000 does not occur"): that of the lowest port,
`PORT_MIN >> 2`, or above. -/
def frameCfgOk (q : BitVec 3) : Bool := Config.portMin / 4 ≤ q.toNat

/-- Well-formed instructions: those some word of R72, R77, R80 or R70 spells. Logical addresses, port numbers and
bit indices of commands are any byte: the operation checks the range (R82). -/
def Instr.wf : Instr → Bool
  | .init => true
  | .setOutput _ _ => true
  | .getOutputState _ => true
  | .getOutputSupply _ => true
  | .getOutputThermal _ => true
  | .getInput _ => true
  | .getInputSupply _ => true
  | .getInputThermal _ => true
  | .select _ _ => true
  | .peWritePort _ _ => true
  | .peReadPort _ => true
  | .peCfgOutput _ _ => true
  | .peCfgInput _ _ => true
  | .peCfgBits _ _ => true
  | .peWakeup _ => true
  | .diReadBit _ => true
  | .fPortWrite p _ => framePortOk p
  | .fPortReadReq p => framePortOk p
  | .fNop => true
  | .fCfgReadReq q => frameCfgOk q
  | .fCfgWrite q _ => frameCfgOk q
  | .fGcfgWrite _ => true
  | .direq16 => true
  | .selOut1 => true
  | .selOut2 => true
  | .selOut3 => true
  | .selOut4 => true
  | .selOut5 => true
  | .selOut6 => true
  | .selIn1 => true
  | .selIn2 => true
  | .selIn3 => true
  | .selIn4 => true
  | .selIn5 => true
  | .selIn6 => true

end Sys2Proof
end

