-- ==== Sys2Proof/Decode.lean ====
section
/-! DEFINITION. The decoder (spec/30_encoding.md R70 to R87), total on any word, rejecting by name; then the encoder,
written from the same tables. -/

namespace Sys2Proof

/-! ### Operand codes (R84) -/

/-- The ordinal 1..6 of a bank (R16, R84). -/
def bankOrdinal : Bank → Nat
  | .b1 => 1
  | .b2 => 2
  | .b3 => 3
  | .b4 => 4
  | .b5 => 5
  | .b6 => 6

/-- The bank an ordinal names; none outside 1..6 (R82: "where `arg` is a bank, `arg` is 1..6"). -/
def bankOfOrdinal? : Nat → Option Bank
  | 1 => some .b1
  | 2 => some .b2
  | 3 => some .b3
  | 4 => some .b4
  | 5 => some .b5
  | 6 => some .b6
  | _ => none

/-- The two-bit code of a level: 00 `Low`, 01 `High`, 10 `HighImpedance` (R84). -/
def levelCode : Level → BitVec 2
  | .low => 0
  | .high => 1
  | .hiz => 2

/-- The level of a code; 11 is no level (R84). -/
def levelOfCode? (c : BitVec 2) : Option Level :=
  if c = 0 then some .low else if c = 1 then some .high else if c = 2 then some .hiz else none

/-- `Direction` in `aux[0]`: 0 = `In`, 1 = `Out` (R84). -/
def directionBit : Direction → Bool
  | .din => false
  | .dout => true

/-- The direction of `aux[0]` (R84). -/
def directionOfBit : Bool → Direction
  | false => .din
  | true => .dout

/-! ### The decoder -/

/-- Why a word spells nothing (R82, R87). -/
inductive DecodeError where
  /-- Bits 9:8 of a `CMD16` word are not 00 (R80, R82). -/
  | zeroFieldSet
  /-- `aux` is not 00 where the operation has no `aux` operand (R82). -/
  | auxNotZero
  /-- `aux` is 11 where it is a level (R82, R84). -/
  | noLevel
  /-- `aux[1]` is 1 where `aux[0]` is a flag or a direction (R82). -/
  | flagHighBitSet
  /-- `arg` is not 1..6 where it is a bank (R82). -/
  | noBank
  /-- `arg` is not 0 where it must be (R82). -/
  | argNotZero
  /-- A component-level opcode while `EXPOSE_COMPONENT_OPS` is false (R82, D23). -/
  | componentOpsHidden
  /-- A bus word that is none of the frames of R72 and R77. -/
  | noFrame
  /-- A select code 6, 7, 14 or 15: "never produced" (R70, R87). -/
  | noSelectCode
deriving DecidableEq, Repr

/-- `op` = bits 15:12 of a command word (R80). -/
def cmdOp (w : Word) : BitVec 4 := w.extractLsb' 12 4

/-- `aux` = bits 11:10 (R80). -/
def cmdAux (w : Word) : BitVec 2 := w.extractLsb' 10 2

/-- Bits 9:8, which must be 00 (R80). -/
def cmdZero (w : Word) : BitVec 2 := w.extractLsb' 8 2

/-- `arg` = bits 7:0 (R80). -/
def cmdArg (w : Word) : Byte := w.extractLsb' 0 8

/-- An operation with no `aux` operand and any `arg` (R82). -/
def plainCmd (w : Word) (f : Byte → Instr) : Except DecodeError Instr :=
  if cmdAux w = 0 then .ok (f (cmdArg w)) else .error .auxNotZero

/-- An operation whose `aux` is a level (R82). -/
def levelCmd (w : Word) (f : Level → Byte → Instr) : Except DecodeError Instr :=
  match levelOfCode? (cmdAux w) with
  | some l => .ok (f l (cmdArg w))
  | none => .error .noLevel

/-- An operation whose `aux[0]` is a flag (R82). -/
def flagCmd (w : Word) (f : Bool → Byte → Except DecodeError Instr) : Except DecodeError Instr :=
  if (cmdAux w).getLsbD 1 then .error .flagHighBitSet else f ((cmdAux w).getLsbD 0) (cmdArg w)

/-- An `arg` that is a bank ordinal (R82). -/
def bankArg (arg : Byte) (f : Bank → Instr) : Except DecodeError Instr :=
  match bankOfOrdinal? arg.toNat with
  | some b => .ok (f b)
  | none => .error .noBank

/-- An operation with no `aux` operand whose `arg` is a bank (R82). -/
def bankCmd (w : Word) (f : Bank → Instr) : Except DecodeError Instr :=
  if cmdAux w = 0 then bankArg (cmdArg w) f else .error .auxNotZero

/-- An `arg` that must be 0 (R82). -/
def noArg (arg : Byte) (i : Instr) : Except DecodeError Instr :=
  if arg = 0 then .ok i else .error .argNotZero

/-- Opcodes 0x0 to 0x7: the operation layer (R81). -/
def decodeFacade (w : Word) : Except DecodeError Instr :=
  match (cmdOp w).toNat with
  | 0 => if cmdAux w = 0 then noArg (cmdArg w) .init else .error .auxNotZero
  | 1 => levelCmd w .setOutput
  | 2 => plainCmd w .getOutputState
  | 3 => bankCmd w .getOutputSupply
  | 4 => bankCmd w .getOutputThermal
  | 5 => plainCmd w .getInput
  | 6 => bankCmd w .getInputSupply
  | _ => bankCmd w .getInputThermal

/-- Opcodes 0x8 to 0xF: the component-level operations (R81). -/
def decodeComponent (w : Word) : Except DecodeError Instr :=
  match (cmdOp w).toNat with
  | 8 => flagCmd w fun flag arg => bankArg arg (.select (directionOfBit flag))
  | 9 => levelCmd w .peWritePort
  | 10 => plainCmd w .peReadPort
  | 11 => levelCmd w .peCfgOutput
  | 12 => flagCmd w fun flag arg => .ok (.peCfgInput flag arg)
  | 13 => .ok (.peCfgBits (cmdAux w) (cmdArg w))
  | 14 => flagCmd w fun flag arg => noArg arg (.peWakeup flag)
  | _ => plainCmd w .diReadBit

/-- The command port's decoder (R80 to R82): `expose` is `EXPOSE_COMPONENT_OPS`. -/
def decodeCmd (expose : Bool) (w : Word) : Except DecodeError Instr :=
  if cmdZero w ≠ 0 then .error .zeroFieldSet
  else if (cmdOp w).toNat < 8 then decodeFacade w
  else if expose then decodeComponent w
  else .error .componentOpsHidden

/-- Byte 0 of a frame, sent first: the high byte (R71). -/
def frameByte0 (w : Word) : Byte := w.extractLsb' 8 8

/-- Byte 1 of a frame: the low byte (R71). -/
def frameByte1 (w : Word) : Byte := w.extractLsb' 0 8

/-- `ppppp` of a port frame: byte 0 bits 4:0 (R72). -/
def framePort (w : Word) : BitVec 5 := w.extractLsb' 8 5

/-- `qqq` of a configuration frame: byte 0 bits 2:0 (R72). -/
def frameCfg (w : Word) : BitVec 3 := w.extractLsb' 8 3

/-- A word matches a row of the table: its bits under the mask are the row's (spec/opcode_table.json). -/
def matchesRow (w mask pattern : Word) : Bool := (w &&& mask) == pattern

/-- A port frame is one the block sends only for ports 4..31 (R72, R87 (b)). -/
def portFrame (p : BitVec 5) (i : Instr) : Except DecodeError Instr :=
  if framePortOk p then .ok i else .error .noFrame

/-- A configuration frame is one the block sends only for registers `q` = 1..7 (R72). -/
def cfgFrame (q : BitVec 3) (i : Instr) : Except DecodeError Instr :=
  if frameCfgOk q then .ok i else .error .noFrame

/-- The frames of the shared bus (R72, R77), by their patterns. -/
def decodeFrame (w : Word) : Except DecodeError Instr :=
  if matchesRow w 0xFFFF 0x0000 then .ok .fNop
  else if matchesRow w 0xFFFF 0x5000 then .ok .direq16
  else if matchesRow w 0xE0FE 0x2000 then portFrame (framePort w) (.fPortWrite (framePort w) (w.getLsbD 0))
  else if matchesRow w 0xE0FF 0xA000 then portFrame (framePort w) (.fPortReadReq (framePort w))
  else if matchesRow w 0xF8FF 0x8800 then cfgFrame (frameCfg w) (.fCfgReadReq (frameCfg w))
  else if matchesRow w 0xF800 0x0800 then cfgFrame (frameCfg w) (.fCfgWrite (frameCfg w) (frameByte1 w))
  else if matchesRow w 0xFF7F 0x0401 then .ok (.fGcfgWrite (w.getLsbD 7))
  else .error .noFrame

/-- The codes of the select lines (R70, R101); 6, 7, 14 and 15 are never produced. -/
def decodeSel (a : ChipAddr) : Except DecodeError Instr :=
  match a.toNat with
  | 13 => .ok .selOut1
  | 12 => .ok .selOut2
  | 11 => .ok .selOut3
  | 10 => .ok .selOut4
  | 9 => .ok .selOut5
  | 8 => .ok .selOut6
  | 5 => .ok .selIn1
  | 4 => .ok .selIn2
  | 3 => .ok .selIn3
  | 2 => .ok .selIn4
  | 1 => .ok .selIn5
  | 0 => .ok .selIn6
  | _ => .error .noSelectCode

/-- The decoder: a word is read by the table of the boundary it stands at. -/
def decodeWord (expose : Bool) : PortWord → Except DecodeError Instr
  | .cmd w => decodeCmd expose w
  | .frame w => decodeFrame w
  | .sel a => decodeSel a

/-! ### The encoder -/

/-- A `CMD16` word from its fields; bits 9:8 are 00 (R80). -/
def cmdWord (op : BitVec 4) (aux : BitVec 2) (arg : Byte) : Word := op ++ aux ++ (0 : BitVec 2) ++ arg

/-- A flag as an `aux` field: `aux[1]` = 0 (R80). -/
def flagAux (f : Bool) : BitVec 2 := if f then 1 else 0

/-- A bank as an `arg` field (R84). -/
def bankByte (b : Bank) : Byte := BitVec.ofNat 8 (bankOrdinal b)

/-- The word of an instruction, at its boundary (R70, R72, R77, R80, R81). -/
def encode : Instr → PortWord
  | .init => .cmd (cmdWord 0x0 0 0)
  | .setOutput l a => .cmd (cmdWord 0x1 (levelCode l) a)
  | .getOutputState a => .cmd (cmdWord 0x2 0 a)
  | .getOutputSupply b => .cmd (cmdWord 0x3 0 (bankByte b))
  | .getOutputThermal b => .cmd (cmdWord 0x4 0 (bankByte b))
  | .getInput a => .cmd (cmdWord 0x5 0 a)
  | .getInputSupply b => .cmd (cmdWord 0x6 0 (bankByte b))
  | .getInputThermal b => .cmd (cmdWord 0x7 0 (bankByte b))
  | .select d b => .cmd (cmdWord 0x8 (flagAux (directionBit d)) (bankByte b))
  | .peWritePort l p => .cmd (cmdWord 0x9 (levelCode l) p)
  | .peReadPort p => .cmd (cmdWord 0xA 0 p)
  | .peCfgOutput l p => .cmd (cmdWord 0xB (levelCode l) p)
  | .peCfgInput u p => .cmd (cmdWord 0xC (flagAux u) p)
  | .peCfgBits b p => .cmd (cmdWord 0xD b p)
  | .peWakeup i => .cmd (cmdWord 0xE (flagAux i) 0)
  | .diReadBit i => .cmd (cmdWord 0xF 0 i)
  | .fPortWrite p d => .frame ((0b001 : BitVec 3) ++ p ++ (0 : BitVec 7) ++ BitVec.ofBool d)
  | .fPortReadReq p => .frame ((0b101 : BitVec 3) ++ p ++ (0 : BitVec 8))
  | .fNop => .frame 0x0000
  | .fCfgReadReq q => .frame ((0b10001 : BitVec 5) ++ q ++ (0 : BitVec 8))
  | .fCfgWrite q c => .frame ((0b00001 : BitVec 5) ++ q ++ c)
  | .fGcfgWrite i => .frame ((0x04 : BitVec 8) ++ BitVec.ofBool i ++ (1 : BitVec 7))
  | .direq16 => .frame 0x5000
  | .selOut1 => .sel 13
  | .selOut2 => .sel 12
  | .selOut3 => .sel 11
  | .selOut4 => .sel 10
  | .selOut5 => .sel 9
  | .selOut6 => .sel 8
  | .selIn1 => .sel 5
  | .selIn2 => .sel 4
  | .selIn3 => .sel 3
  | .selIn4 => .sel 2
  | .selIn5 => .sel 1
  | .selIn6 => .sel 0

/-! ### Words of the opcode table -/

/-- An outcome of the decoder as an option. -/
def instr? : Except DecodeError Instr → Option Instr
  | .ok i => some i
  | .error _ => none

/-- The boundary at which a word of the opcode table stands (log entry 10). A `SEL4` row has 4 bits, one byte at most.
The word 0x5000 stands on the bus: `DIREQ16` has no other word, and `GET_INPUT` has 255. Any other 16-bit word that
spells a command stands on the command port, the rest on the bus. -/
def tablePortWord (nbits w : Nat) : PortWord :=
  if nbits ≤ 8 then .sel (BitVec.ofNat 4 w)
  else if w = 0x5000 then .frame 0x5000
  else match decodeCmd true (BitVec.ofNat 16 w) with
    | .ok _ => .cmd (BitVec.ofNat 16 w)
    | .error _ => .frame (BitVec.ofNat 16 w)

/-- The instruction the decoder reads from a word of the opcode table, `nbits` wide (log entry 10). -/
def decodeTableWord (nbits w : Nat) : Option Instr :=
  if w < 2 ^ (if nbits ≤ 8 then Config.nSel else 16) then instr? (decodeWord true (tablePortWord nbits w)) else none

end Sys2Proof
end

