-- ==== Sys2Proof/Machine/State.lean ====
section
/-! DEFINITION. The state as plain data (spec/10_state.md), its value after reset (R33), the reasons a step can stop,
and the types of results and errors (spec/60_exceptions.md R200). INVENTORY.md lists every field with its rule. -/

namespace Sys2Proof.Machine

/-! ### Results and errors -/

/-- The two causes of a `Transport` error (R200, R206, D31). -/
inductive TransportCause where
  | busExchange
  | pinDrive
deriving DecidableEq, Repr

/-- The error kinds (R200): values an operation returns, not stops of the machine. `notPresent` is "reserved", and no
operation raises it (R205). -/
inductive ErrKind where
  | illegalInput
  | illegalOutput
  | unsupportedLevel
  | diParity
  | notPresent
  | transport (cause : TransportCause)
deriving DecidableEq, Repr

/-- The result of an operation: `Ok(value)` or `Err(e)` (R11). -/
inductive Res (α : Type) where
  | ok (a : α)
  | err (e : ErrKind)
deriving DecidableEq, Repr

/-- The value of a successful command, by result type (R86). -/
inductive Value where
  | unit
  | bit (b : Bool)
  | level (l : Level)
  | line (l : LineState)
  | supply (s : SupplyState)
  | thermal (t : ThermalState)
deriving DecidableEq, Repr

/-! ### The pieces of state -/

/-- One thing per bank: the six chips of one direction (R25). -/
structure Six (α : Type) where
  b1 : α
  b2 : α
  b3 : α
  b4 : α
  b5 : α
  b6 : α
deriving DecidableEq, Repr, Inhabited

/-- The sequencer position (R24, R33): `idle` between commands, or the command being run and how many interface
actions of its sequence have been performed. -/
inductive Sequencer where
  | idle
  | running (command : Instr) (position : Nat)
deriving DecidableEq, Repr

/-- What the twelve external chips hold (R26 to R31), reached through the protocol only. -/
structure Chips where
  /-- The registers 0x00..0x7F of the six port-expander chips (R26 to R29, R62), as the memory of this hardware: byte
  `chip address * 128 + register address`, in one canonical form (`Memory.lean`). -/
  regs : List Host.Cell
  /-- The pending read value of each port-expander chip, 8 bits (R30, R62). -/
  pend : Six Byte
  /-- The frame register of each serial-input chip, 16 bits (R31, R64). -/
  lat : Six Word
deriving DecidableEq, Repr

/-- The state. The first group is what the spec gives the block and the chips; the second, from `log` on, is the
observable record (R7) and the environment (R60 to R65), which is the model's own. -/
structure State where
  /-- The parameters of R5: fixed for the machine, read and never written (R34). -/
  cfg : Params
  /-- The six output latches (R21). -/
  lines : Lines
  /-- `BUF[0]`, 8 bits (R22). -/
  buf0 : Byte
  /-- `BUF[1]`, 8 bits (R22). -/
  buf1 : Byte
  /-- `COMB`, 16 bits (R22). -/
  comb : Word
  /-- `CFGTMP`, 8 bits (R22). -/
  cfgtmp : Byte
  /-- The sequencer position (R24). -/
  seq : Sequencer
  /-- The word presented to the block and not yet accepted (R6, R80). -/
  port : Option PortWord
  /-- The response port: the `RSP16` word of the last completed command (R85). -/
  rsp : Option Word
  /-- The external chips (R26 to R31). -/
  chips : Chips
  /-- The event trace (R7), newest event first. -/
  log : List Event
  /-- Which environment answers (R60, R61). -/
  env : EnvMode
  /-- The oracle's next choices, in order, one for each drive and each exchange (R60). -/
  script : List EnvChoice
  /-- How many free values have been drawn. -/
  draws : Nat
  /-- The external signals at the pins of the port-expander chips, bit `p` of a bank's word for port `p` (R63). -/
  pinIn : Six (BitVec 32)
  /-- The data the serial-input chips sense, 10 bits each (R64). -/
  sensed : Six (BitVec 10)
deriving DecidableEq, Repr

/-! ### Stops -/

/-- Why the machine is stuck. -/
inductive Fault where
  /-- Raised by `step` when a word is presented while the sequencer is not idle: "only then accepts the next command"
  (R6, D21). No step leaves the sequencer running, so no run from reset reaches it. Safe. -/
  | sequencerBusy
deriving DecidableEq, Repr

/-- Why a word has no step. -/
inductive Refusal where
  /-- Raised by an arm of `exec` for an instruction with no meaning yet. Safe. No arm raises it. -/
  | notModelled (mnemonic : String)
  /-- Raised by `step` for a word that spells no command (R82: "the machine has no step"), for the reason named. Safe. -/
  | spellsNothing (why : DecodeError)
deriving DecidableEq, Repr

/-! ### Reset -/

/-- The same thing in every bank. -/
def Six.all {α : Type} (a : α) : Six α := ⟨a, a, a, a, a, a⟩

/-- The latches after reset: `lines_idle` (R230) and select lines low. The spec gives no value (DESIGN CHOICE, log
entry 2). -/
def linesAtReset : Lines := { a0 := false, a1 := false, a2 := false, a3 := false, cs := true, load := true }

/-- The chips after reset: bit 0 of register 0x04 is 0 (R27, R231); everything else is 0 as well, where the spec gives
no value (DESIGN CHOICE, log entries 4 and 5). -/
def Chips.reset : Chips := { regs := [], pend := Six.all 0, lat := Six.all 0 }

/-- The machine right after reset (R33, R230): the sequencer idle, no word presented, no response, an empty trace. -/
def State.reset : State where
  cfg := Params.default
  lines := linesAtReset
  buf0 := 0
  buf1 := 0
  comb := 0
  cfgtmp := 0
  seq := .idle
  port := none
  rsp := none
  chips := Chips.reset
  log := []
  env := .oracle
  script := []
  draws := 0
  pinIn := Six.all 0
  sensed := Six.all 0

end Sys2Proof.Machine
end

