-- ==== Sys2Proof/Machine/Memory.lean ====
section
/-! DEFINITION. What stands in the place of memory (spec/20_memory.md R40 to R42): the byte registers of the six
port-expander chips, addressed by chip address and 7-bit register address, held as (address, byte) pairs in one
canonical form; and the six-fold registers of the chips. -/

namespace Sys2Proof.Machine

/-! ### One thing per bank -/

/-- The thing of one bank. -/
def Six.get {α : Type} (s : Six α) : Bank → α
  | .b1 => s.b1
  | .b2 => s.b2
  | .b3 => s.b3
  | .b4 => s.b4
  | .b5 => s.b5
  | .b6 => s.b6

/-- The thing of one bank, replaced. -/
def Six.set {α : Type} (s : Six α) (b : Bank) (a : α) : Six α :=
  match b with
  | .b1 => { s with b1 := a }
  | .b2 => { s with b2 := a }
  | .b3 => { s with b3 := a }
  | .b4 => { s with b4 := a }
  | .b5 => { s with b5 := a }
  | .b6 => { s with b6 := a }

/-- A function of the bank, tabulated. -/
def Six.tabulate {α : Type} (f : Bank → α) : Six α := ⟨f .b1, f .b2, f .b3, f .b4, f .b5, f .b6⟩

/-! ### Addresses -/

/-- `chip_addr` (R101): 14 - bank for outputs (`OUT_ADDR`), 6 - bank for inputs (`IN_ADDR`). -/
def chipAddr : Direction → Bank → ChipAddr
  | .dout, b => BitVec.ofNat 4 (Config.outAddr - bankOrdinal b)
  | .din, b => BitVec.ofNat 4 (Config.inAddr - bankOrdinal b)

/-- The chip at a chip address (R41); none at 6, 7, 14 and 15 (R65). -/
def chipAt (a : ChipAddr) : Option (Direction × Bank) :=
  match a.toNat with
  | 0 => some (.din, .b6)
  | 1 => some (.din, .b5)
  | 2 => some (.din, .b4)
  | 3 => some (.din, .b3)
  | 4 => some (.din, .b2)
  | 5 => some (.din, .b1)
  | 8 => some (.dout, .b6)
  | 9 => some (.dout, .b5)
  | 10 => some (.dout, .b4)
  | 11 => some (.dout, .b3)
  | 12 => some (.dout, .b2)
  | 13 => some (.dout, .b1)
  | _ => none

/-- The lowest memory address, 1024: register 0x00 of the lowest port expander, the chip at address 8. -/
def memBase : Nat := (Config.outAddr - Config.nBanks) * Config.nRegs

/-- How many bytes the memory has, 768: 128 registers in each of six chips (R62). -/
def memSize : Nat := Config.nBanks * Config.nRegs

/-- The memory address of register `r` of the port-expander chip of output bank `b`. -/
def regAddr (b : Bank) (r : RegAddr) : Nat := (chipAddr .dout b).toNat * Config.nRegs + r.toNat

/-! ### Reading and writing one byte -/

/-- What an address reads as that nothing lists: 0x00 (log entry 4, DESIGN CHOICE). -/
def unlistedByte : Byte := 0

/-- The byte at an address. -/
def memRead : List Host.Cell → Nat → Byte
  | [], _ => unlistedByte
  | (a, v) :: m, x => if a = x then v else memRead m x

/-- The listed cell of an address, or nothing where the byte is the one an unlisted address reads as. -/
def memCell (x : Nat) (v : Byte) (rest : List Host.Cell) : List Host.Cell :=
  if v = unlistedByte then rest else (x, v) :: rest

/-- One byte written; the canonical form is kept. -/
def memWrite : List Host.Cell → Nat → Byte → List Host.Cell
  | [], x, v => memCell x v []
  | (a, w) :: m, x, v =>
    if x < a then memCell x v ((a, w) :: m)
    else if x = a then memCell x v m
    else (a, w) :: memWrite m x v

/-- Every address above `lo`, strictly rising, none past the end, no byte equal to the unlisted one. -/
def memSorted (lo : Nat) : List Host.Cell → Bool
  | [] => true
  | (a, v) :: m => decide (lo ≤ a) && decide (a < memBase + memSize) && decide (v ≠ unlistedByte) && memSorted (a + 1) m

/-- The canonical form: addresses strictly rising within the registers of the six chips, no entry equal to what an
unlisted address reads as. -/
def memWf (m : List Host.Cell) : Bool := memSorted memBase m

/-- The canonical memory that a list of (address, byte) pairs describes; pairs outside the memory count for nothing. -/
def memOf : List Host.Cell → List Host.Cell
  | [] => []
  | (a, v) :: m => if memBase ≤ a ∧ a < memBase + memSize then memWrite (memOf m) a v else memOf m

/-! ### The registers of one chip -/

/-- Register `r` of the port-expander chip of bank `b`. -/
def Chips.reg (c : Chips) (b : Bank) (r : RegAddr) : Byte := memRead c.regs (regAddr b r)

/-- Register `r` of the port-expander chip of bank `b`, written. -/
def Chips.setReg (c : Chips) (b : Bank) (r : RegAddr) (v : Byte) : Chips :=
  { c with regs := memWrite c.regs (regAddr b r) v }

/-- The pending read value of the port-expander chip of bank `b`, set. -/
def Chips.setPend (c : Chips) (b : Bank) (v : Byte) : Chips := { c with pend := c.pend.set b v }

/-- Chips whose every register, pending read value and frame register is a free value (R244, log entry 12). -/
def Chips.free (draw : Nat) : Chips where
  regs := memOf (Config.freeCells draw)
  pend := Six.tabulate fun b => Config.freeByte draw (bankOrdinal b)
  lat := Six.tabulate fun b =>
    Config.freeByte draw (10 + bankOrdinal b) ++ Config.freeByte draw (20 + bankOrdinal b)

end Sys2Proof.Machine
end

