-- ==== Sys2Proof/Machine/Operands.lean ====
section
/-! DEFINITION. The operand forms: the logical-to-physical translator and the value decodings
(spec/43_translator.md), the register bytes of the frames (spec/30_encoding.md R73, R75) and the packed
configuration fields (spec/41_port_expander.md R120). Pure functions; nothing here performs an interface action. -/

namespace Sys2Proof.Machine

/-! ### Logical addresses (R160 to R162) -/

/-- `l` is in 1..48 (R161). -/
def logicalInRange (l : BitVec 8) : Bool := 1 ≤ l.toNat && l.toNat ≤ Config.nLogical

/-- `bank(l) = (l - 1) / 8 + 1`, as an ordinal (R162). -/
def logicalBankOrdinal (l : BitVec 8) : Nat := (l.toNat - 1) / Config.nLocal + 1

/-- `local(l) = (l - 1) % 8 + 1` (R162). -/
def logicalLocal (l : BitVec 8) : Nat := (l.toNat - 1) % Config.nLocal + 1

/-- The inverse: `logical(b, k) = (b - 1) * 8 + k` (R162). -/
def logicalOf (b : Bank) (k : Nat) : Nat := (bankOrdinal b - 1) * Config.nLocal + k

/-! ### Physical addresses (R164, R165) -/

/-- The enable port of local output `k`: `k + 3`, ports 4..11 (R164). -/
def enablePort (k : Nat) : Byte := BitVec.ofNat 8 (k + 3)

/-- The state port of local output `k`: `k + 11`, ports 12..19 (R164). -/
def statePort (k : Nat) : Byte := BitVec.ofNat 8 (k + 11)

/-- The frame bit of local input `k`: `k - 1` (R165). -/
def inputIndex (k : Nat) : Byte := BitVec.ofNat 8 (k - 1)

/-- The thermal diagnostic's frame bit (R165). -/
def thermalIndex : Byte := 8

/-- The supply diagnostic's frame bit (R165). -/
def supplyIndex : Byte := 9

/-! ### Register bytes and fields (R73, R120) -/

/-- `p` is in 4..31 (R114). -/
def portInRange (p : BitVec 8) : Bool := Config.portMin ≤ p.toNat && p.toNat ≤ Config.portMax

/-- The register byte of a port write, `0x20 + p` (R73). -/
def portReg (p : Byte) : Byte := Config.peWriteBase + p

/-- `q = p >> 2` (R73). -/
def cfgIndex (p : Byte) : Byte := p >>> 2

/-- The register byte of a configuration write, `0x08 + q` (R73). -/
def cfgReg (p : Byte) : Byte := Config.peCfgBase + cfgIndex p

/-- The field offset `(p & 3) * 2` (R73, R120). -/
def cfgOffset (p : Byte) : Nat := (p &&& 3).toNat * 2

/-- The request byte of a register read, `0x80 | r` (R113). -/
def readRequest (r : Byte) : Byte := Config.peReadFlag ||| r

/-- `update_field(old, off, bits)` (R120): clear the 2-bit field at `off`, OR in the new bits. -/
def updateField (old : Byte) (off : Nat) (bits : BitVec 2) : Byte :=
  (old &&& ~~~((0b11 : Byte) <<< off)) ||| (bits.setWidth 8 <<< off)

/-- The 2-bit field of a configuration byte at an offset (R74). -/
def cfgField (c : Byte) (off : Nat) : BitVec 2 := c.extractLsb' off 2

/-- Field code 01: output mode (R28, R74). -/
def fieldOutput : BitVec 2 := 0b01

/-- Field codes 11 and 10: input with and without pull-up (R28, R74, R123). -/
def fieldInput (pullup : Bool) : BitVec 2 := if pullup then 0b11 else 0b10

/-- The data byte of a wake-up: 0x81 or 0x01 (R27, R124). -/
def wakeByte (enableIrq : Bool) : Byte := if enableIrq then 0x81 else 0x01

/-- The data byte of a port write; `Low` has no encoding (R75). -/
def levelData? : Level → Option Byte
  | .high => some 0x01
  | .hiz => some 0x00
  | .low => none

/-- The level of a byte read from a port register: nonzero is `High`, zero is `Low` (R75). -/
def levelOfByte (v : Byte) : Level := if v = 0x00 then .low else .high

/-! ### Value decodings (R171 to R175) -/

/-- Boolean to level: set is `High`, clear is `Low` (R171). -/
def levelOfBit (b : Bool) : Level := if b then .high else .low

/-- A diagnostic bit is asserted, given the levels read at ports 22 and 23 (R172). -/
def diagAsserted (d : DiagBit) (l22 l23 : Level) : Bool :=
  if (if d.onPort23 then l23 else l22) = .high then d.assertedHigh else d.assertedLow

/-- `OUT_THERMAL_DECODE` (R172): "Hot takes precedence over Warm". -/
def outThermal (t : ThermalDecode) (l22 l23 : Level) : ThermalState :=
  if diagAsserted t.hot l22 l23 then .hot else if diagAsserted t.warm l22 l23 then .warm else .normal

/-- An output bank's supply as a `SupplyState` (R173). -/
def outSupplyState : OutSupply → SupplyState
  | .v24 => .v24
  | .v12 => .v12
  | .unpowered => .unpowered

/-- `OUT_SUPPLY_DECODE` (R173), from the levels read at ports 20 and 21. -/
def outSupply (d : SupplyDecode) (l20 l21 : Level) : OutSupply :=
  match l20, l21 with
  | .high, .high => d.highHigh
  | .high, _ => d.highLow
  | _, .high => d.lowHigh
  | _, _ => d.lowLow

/-- Output line state: `High` is `Normal`, else `OpenOrFault` (R174). -/
def lineOfLevel (l : Level) : LineState := if l = .high then .normal else .openOrFault

/-- Input thermal state: clear is `Hot`, set is `Normal` (R174). -/
def inThermal (b : Bool) : ThermalState := if b then .normal else .hot

/-- Input supply state: set is `Powered`, clear is `Unpowered` (R174). -/
def inSupply (b : Bool) : SupplyState := if b then .powered else .unpowered

/-- `toggle` (R175): "maps High↔Low; HighImpedance is a fixed point". No operation calls it. -/
def toggle : Level → Level
  | .high => .low
  | .low => .high
  | .hiz => .hiz

end Sys2Proof.Machine
end

