-- ==== Sys2Proof/Machine/Flags.lean ====
section
/-! DEFINITION. The block has no flags (spec/10_state.md R23). What other machines compute as flags stands here: the
two checks of a serial-input word (spec/42_serial_input.md R142 to R144) and the status and value codes of the
response word (spec/30_encoding.md R85, R86). -/

namespace Sys2Proof.Machine

/-! ### The serial-input word -/

/-- Assembly of `COMB` (R142): the first byte is the low byte, the second, bit-reversed, the high byte. -/
def combined (r0 r1 : Byte) : Word := rev8 r1 ++ r0

/-- Header check (R143): `COMB & DI_HEADER_MASK = DI_HEADER`. -/
def headerOk (cfg : Params) (c : Word) : Bool := (c &&& Config.diHeaderMask) == cfg.diHeader

/-- `popcount(COMB & DI_DATA_MASK) % 2`, as a bit (R144). -/
def dataParity (c : Word) : Bool := popcount (c &&& Config.diDataMask) % 2 == 1

/-- Parity check (R144): `AS_IMPLEMENTED` rejects a word whose computed parity equals bit 10, `AGREEMENT` one whose
computed parity differs from it. -/
def parityOk (cfg : Params) (c : Word) : Bool :=
  match cfg.diParityMode with
  | .asImplemented => dataParity c != c.getLsbD Config.diParityBit
  | .agreement => dataParity c == c.getLsbD Config.diParityBit

/-- The frame a serial-input chip latches from the data it senses (R32, R64): header, parity bit, ten data bits. -/
def sampledWord (cfg : Params) (d : BitVec 10) : Word :=
  let c := dataParity (d.setWidth 16)
  let par := match cfg.diParityMode with
    | .asImplemented => !c
    | .agreement => c
  cfg.diHeader ||| ((BitVec.ofBool par).setWidth 16 <<< Config.diParityBit) ||| d.setWidth 16

/-! ### The response word -/

/-- `status` code of an error (R86, R200). -/
def errCode : ErrKind → BitVec 4
  | .illegalInput => 1
  | .illegalOutput => 2
  | .unsupportedLevel => 3
  | .diParity => 4
  | .notPresent => 5
  | .transport .busExchange => 6
  | .transport .pinDrive => 7

/-- `value` code of a successful result (R86). -/
def valueCode : Value → BitVec 4
  | .unit => 0
  | .bit b => if b then 1 else 0
  | .level .low => 0
  | .level .high => 1
  | .level .hiz => 2
  | .line .normal => 0
  | .line .openOrFault => 1
  | .supply .unpowered => 0
  | .supply .powered => 1
  | .supply .v12 => 2
  | .supply .v24 => 3
  | .thermal .normal => 0
  | .thermal .warm => 1
  | .thermal .hot => 2

/-- `RSP16` (R85): status in bits 15:12, zeros in 11:4, the value code in 3:0 when the status is `Ok`. -/
def rspWord : Res Value → Word
  | .ok v => (0 : BitVec 4) ++ (0 : BitVec 8) ++ valueCode v
  | .err e => errCode e ++ (0 : BitVec 8) ++ (0 : BitVec 4)

/-- The `status` field of a response word (R85). -/
def rspStatus (w : Word) : BitVec 4 := w.extractLsb' 12 4

end Sys2Proof.Machine
end

