-- ==== Sys2Proof/Machine/Environment.lean ====
section
/-! DEFINITION. What stands outside the block: the environment's choices (spec/20_memory.md R60), the reference
responder (R61 to R65), and what a drive or an exchange does to the external chips (spec/10_state.md R25 to R31,
spec/70_reset_and_hazards.md R241, R244). -/

namespace Sys2Proof

/-! ### Lines -/

/-- The level a line's latch holds. -/
def Lines.get (l : Lines) : Line → Bool
  | .a0 => l.a0
  | .a1 => l.a1
  | .a2 => l.a2
  | .a3 => l.a3
  | .cs => l.cs
  | .load => l.load

/-- A line's latch, set. -/
def Lines.set (l : Lines) (x : Line) (b : Bool) : Lines :=
  match x with
  | .a0 => { l with a0 := b }
  | .a1 => { l with a1 := b }
  | .a2 => { l with a2 := b }
  | .a3 => { l with a3 := b }
  | .cs => { l with cs := b }
  | .load => { l with load := b }

/-- The chip address on the select lines, `A[3] A[2] A[1] A[0]` (R25). -/
def Lines.address (l : Lines) : ChipAddr :=
  BitVec.ofBool l.a3 ++ BitVec.ofBool l.a2 ++ BitVec.ofBool l.a1 ++ BitVec.ofBool l.a0

/-- The select lines holding a chip address: `A[i]` is bit `i` (R70). -/
def Lines.withAddress (l : Lines) (a : ChipAddr) : Lines :=
  { l with a0 := a.getLsbD 0, a1 := a.getLsbD 1, a2 := a.getLsbD 2, a3 := a.getLsbD 3 }

/-- The lines are idle: `CS` and `LOAD` high, the launch premise `lines_idle` of R230. -/
def Lines.idle (l : Lines) : Bool := l.cs && l.load

end Sys2Proof

namespace Sys2Proof.Machine

/-! ### Updates of the state outside the block's registers -/

/-- One latch changed. -/
def State.setLine (s : State) (x : Line) (b : Bool) : State := { s with lines := s.lines.set x b }

/-- The chips changed. -/
def State.setChips (s : State) (c : Chips) : State := { s with chips := c }

/-- One free value drawn. -/
def State.drawn (s : State) : State := { s with draws := s.draws + 1 }

/-- The sequencer position after one more interface action (R24). -/
def Sequencer.advance : Sequencer → Sequencer
  | .idle => .idle
  | .running i n => .running i (n + 1)

/-- One interface action performed: its event appended to the trace, the position advanced (R7, R24). -/
def State.emit (s : State) (e : Event) : State := { s with log := e :: s.log, seq := s.seq.advance }

/-! ### The environment's choices -/

/-- The oracle's next choice (R60): the next of the script, or, past its end, the free value `Config.oracle`. -/
def consult (act : EnvAction) (s : State) : EnvChoice × State :=
  match s.script with
  | c :: cs => (c, { s with script := cs })
  | [] => (Config.oracle s.draws s.log s.lines act, s.drawn)

/-- The choice that nothing fails. -/
def noFailure : EnvChoice := { fails := false, b0 := 0, b1 := 0 }

/-- The choice for a drive (R12, R206): only the oracle makes one, and only when `PIN_DRIVE_CAN_FAIL`; "in the
reference responder no `drive` and no `xfer` fails" (R61). -/
def driveChoice (x : Line) (b : Bool) (s : State) : EnvChoice × State :=
  if s.env = .oracle ∧ s.cfg.pinDriveCanFail = true then consult (.drive x b) s else (noFailure, s)

/-- What the reference responder answers at the current chip address (R62, R64, R65). -/
def referenceAnswer (s : State) : EnvChoice :=
  match chipAt s.lines.address with
  | some (.dout, b) =>
    match s.cfg.peRespIndex with
    | .byte1 => { fails := false, b0 := 0x00, b1 := s.chips.pend.get b }
    | .byte0 => { fails := false, b0 := s.chips.pend.get b, b1 := 0x00 }
  | some (.din, b) =>
    { fails := false, b0 := (s.chips.lat.get b).extractLsb' 0 8, b1 := rev8 ((s.chips.lat.get b).extractLsb' 8 8) }
  | none => { fails := false, b0 := 0xFF, b1 := 0xFF }

/-- The choice for an exchange (R14, R60, R61). -/
def xferChoice (t0 t1 : Byte) (s : State) : EnvChoice × State :=
  match s.env with
  | .oracle => consult (.xfer t0 t1) s
  | .reference => (referenceAnswer s, s)

/-! ### What the chips do on a drive -/

/-- Every chip register becomes a free value: "its effect on the chips is not described by any rule" (R244). -/
def disturbChips (s : State) : State := (s.setChips (Chips.free s.draws)).drawn

/-- The frame registers of the serial-input chips become free values. -/
def disturbLatches (s : State) : State :=
  (s.setChips { s.chips with lat := (Chips.free s.draws).lat }).drawn

/-- The low level of the load pulse makes every serial-input chip latch the data it senses (R31, R64). -/
def sampleInputs (s : State) : State :=
  s.setChips { s.chips with lat := Six.tabulate fun b => sampledWord s.cfg (s.sensed.get b) }

/-- The chips see a line driven: `LOAD` driven low makes the serial-input chips sample (R64). No other drive has an
effect of its own. What the rules do not describe, a drive while `CS` or `LOAD` should be high and is not (R241, R244),
is settled for the whole command in `settleChips`. -/
def chipsSeeDrive (x : Line) (b : Bool) (s : State) : State :=
  match x with
  | .cs => s
  | .load => if b then s else sampleInputs s
  | .a0 => s
  | .a1 => s
  | .a2 => s
  | .a3 => s

/-- The chips see a drive that failed. R12, R125 and U6 speak of the latch only, so this is the model's choice (log
entries 13 and 15): a failed drive of `LOAD` frees the frame registers, since the inputs may or may not have been
latched; a failed drive of a select line or of `CS` changes no chip. -/
def chipsSeeFailedDrive (x : Line) (s : State) : State :=
  match x with
  | .cs => s
  | .load => disturbLatches s
  | .a0 => s
  | .a1 => s
  | .a2 => s
  | .a3 => s

/-! ### What the chips do on an exchange -/

/-- The register address of a frame's first byte: bits 6:0 (R71). -/
def regOf (t0 : Byte) : RegAddr := t0.setWidth 7

/-- The port whose single-port register is `r`: `r - PE_WRITE_BASE` (R29). -/
def portOfReg (r : RegAddr) : Nat := r.toNat - Config.peWriteBase.toNat

/-- The single-port registers of ports 4..31 are 0x24..0x3F (R29). -/
def isPortReg (r : RegAddr) : Bool :=
  Config.peWriteBase.toNat + Config.portMin ≤ r.toNat && r.toNat ≤ Config.peWriteBase.toNat + Config.portMax

/-- The port expander of a bank is awake: bit 0 of register 0x04 (R27, R220). -/
def Chips.awake (c : Chips) (b : Bank) : Bool := (c.reg b (regOf Config.peGcfgReg)).getLsbD 0

/-- The configuration field of port `p` of a bank's port expander (R28). -/
def Chips.portField (c : Chips) (b : Bank) (p : Nat) : BitVec 2 :=
  cfgField (c.reg b (BitVec.ofNat 7 (Config.peCfgBase.toNat + p / 4))) (p % 4 * 2)

/-- `value(a)` of an awake chip's register, or of a register that is no port (R63): a port register of an
output is the byte last written, of any other field value the signal at the pin. -/
def regValue (s : State) (b : Bank) (r : RegAddr) : Byte :=
  if isPortReg r && s.chips.portField b (portOfReg r) != fieldOutput then
    bitByte ((s.pinIn.get b).getLsbD (portOfReg r))
  else s.chips.reg b r

/-- A read request makes the chip capture the value of the register (R30, R62); of a port register of a chip that is
not awake the value is a draw (R63, U2). -/
def captureRead (b : Bank) (r : RegAddr) (s : State) : State :=
  if isPortReg r && !s.chips.awake b then
    (s.setChips (s.chips.setPend b (Config.freeByte s.draws 0))).drawn
  else s.setChips (s.chips.setPend b (regValue s b r))

/-- A port expander takes a frame (R62): a read request captures, a write stores, the no-operation does nothing. -/
def expanderTakes (b : Bank) (t0 t1 : Byte) (s : State) : State :=
  if t0.getLsbD 7 then captureRead b (regOf t0) s
  else if t0 = 0x00 then s
  else s.setChips (s.chips.setReg b (regOf t0) t1)

/-- A port expander and an exchange that failed (log entry 13): a write leaves it untouched (test vector E13), and
so does the no-operation (V23). A read request writes nothing (R121, V41), and whether it was captured no rule says, so
the pending value is free. -/
def expanderMisses (b : Bank) (t0 : Byte) (s : State) : State :=
  if t0.getLsbD 7 then (s.setChips (s.chips.setPend b (Config.freeByte s.draws 0))).drawn else s

/-- The addressed chip takes an exchange (R25, R62, R64, R65). -/
def chipsTake (t0 t1 : Byte) (s : State) : State :=
  match chipAt s.lines.address with
  | some (.dout, b) => expanderTakes b t0 t1 s
  | some (.din, _) => s
  | none => s

/-- The addressed chip and an exchange that failed; a serial-input chip's frame register is left alone (log entry 13). -/
def chipsMiss (t0 : Byte) (s : State) : State :=
  match chipAt s.lines.address with
  | some (.dout, b) => expanderMisses b t0 s
  | some (.din, _) => s
  | none => s

/-- Register `r` of the addressed port expander is "in an unknown state" (R121): a free value. -/
def loseRegister (r : Byte) (s : State) : State :=
  match chipAt s.lines.address with
  | some (.dout, b) => (s.setChips (s.chips.setReg b (regOf r) (Config.freeByte s.draws 0))).drawn
  | some (.din, _) => s
  | none => s

/-! ### A command outside `lines_idle` -/

/-- A command of this sequencer has performed at least one interface action (R24). -/
def Sequencer.acted : Sequencer → Bool
  | .idle => false
  | .running _ n => 0 < n

/-- The chips after a command that began at `s` and has left `t`. A command that acts on the lines while `CS` or `LOAD`
is not high "ran with the premise violated and its effect on the chips is not described by any rule" (R244, R241): with
the oracle, every chip register becomes a free value (log entry 12). The reference responder does not look (R61, R66),
and a command turned away before any interface action changes nothing (R161, R114). -/
def settleChips (s t : State) : State :=
  if s.env = .oracle ∧ s.lines.idle = false ∧ t.seq.acted = true then disturbChips t else t

end Sys2Proof.Machine
end

