-- ==== Sys2Proof/Machine/Ops.lean ====
section
/-! DEFINITION. The named operations: sequencing and errors (spec/00_scope.md R11), the interface primitives (R12 to
R14), framing, register write and register read (spec/41_port_expander.md R111 to R113), the load pulse and frame
read (spec/42_serial_input.md R141), raising an error and completing a command (spec/60_exceptions.md R209, R211). -/

namespace Sys2Proof.Machine

/-- An operation: from a state, a result and the state it leaves (R11). -/
abbrev Op (α : Type) := State → Res α × State

/-! ### Sequencing and errors (R11) -/

/-- `return Ok(a)`. -/
def ret {α : Type} (a : α) : Op α := fun s => (.ok a, s)

/-- `raise e`: the block's trap entry (R11, R209). The operation stops here; nothing is saved, undone or cleared. -/
def raise {α : Type} (e : ErrKind) : Op α := fun s => (.err e, s)

/-- `m()?` and then the rest: the first error ends the operation and every operation that called it (R11). -/
def andThen {α β : Type} (m : Op α) (k : α → Op β) : Op β := fun s =>
  match m s with
  | (.ok a, t) => k a t
  | (.err e, t) => (.err e, t)

/-- `m`, and what its failure does besides: an error of `m`, wherever in it, is passed on, the state changed by `f`. -/
def onError {α : Type} (m : Op α) (f : State → State) : Op α := fun s =>
  match m s with
  | (.ok a, t) => (.ok a, t)
  | (.err e, t) => (.err e, f t)

/-- `for x in xs: f(x)?` (R181). -/
def forEach {α : Type} (xs : List α) (f : α → Op Unit) : Op Unit :=
  match xs with
  | [] => ret ()
  | x :: rest => andThen (f x) fun _ => forEach rest f

/-- A pure check: raise an error unless it holds. -/
def require (ok : Bool) (e : ErrKind) : Op Unit := if ok then ret () else raise e

/-! ### The working registers (R22) -/

/-- `BUF` written (R14). -/
def State.setBuf (s : State) (r0 r1 : Byte) : State := { s with buf0 := r0, buf1 := r1 }

/-- `COMB` written (R142). -/
def State.setComb (s : State) (c : Word) : State := { s with comb := c }

/-- `CFGTMP` written (R121). -/
def State.setCfgtmp (s : State) (v : Byte) : State := { s with cfgtmp := v }

/-- `COMB <- c`, as an operation. -/
def writeComb (c : Word) : Op Unit := fun s => (.ok (), s.setComb c)

/-- `CFGTMP <- v`, as an operation. -/
def writeCfgtmp (v : Byte) : Op Unit := fun s => (.ok (), s.setCfgtmp v)

/-- A value computed from the parameters, which no operation changes (R34). -/
def readCfg : Op Params := fun s => (.ok s.cfg, s)

/-! ### The interface primitives -/

/-- `drive(line, b)` (R12): the event, then the latch; a failed drive is in the trace too and leaves the latch a draw
(D19, U6). -/
def drive (x : Line) (b : Bool) : Op Unit := fun s =>
  let c := driveChoice x b s
  if c.1.fails then
    (.err (.transport .pinDrive), (chipsSeeFailedDrive x (c.2.emit (.pin x b))).setLine x (c.1.b0.getLsbD 0))
  else (.ok (), (chipsSeeDrive x b (c.2.emit (.pin x b))).setLine x b)

/-- `delay_us(T_SETTLE_US)` (R13): an event and nothing else. -/
def settle : Op Unit := fun s => (.ok (), s.emit (.delay Config.settleUs))

/-- `xfer(t0, t1)` (R14): `BUF` is sent and replaced by the two received bytes; a failed exchange leaves two draws in
it (D19, U6). -/
def xfer (t0 t1 : Byte) : Op (Byte × Byte) := fun s =>
  let c := xferChoice t0 t1 s
  if c.1.fails then
    (.err (.transport .busExchange), (chipsMiss t0 (c.2.emit (.xferFail t0 t1))).setBuf c.1.b0 c.1.b1)
  else (.ok (c.1.b0, c.1.b1), (chipsTake t0 t1 (c.2.emit (.xfer t0 t1 c.1.b0 c.1.b1))).setBuf c.1.b0 c.1.b1)

/-! ### Framing, register write, register read -/

/-- `frame(t0, t1)` (R111): `CS` low, 2 µs, exchange, 2 µs, `CS` high, 2 µs. A failure stops it where it is met (R125,
R209): before the exchange no chip has seen the frame, after it the chip has taken it (R50). -/
def frame (t0 t1 : Byte) : Op (Byte × Byte) :=
  andThen (drive .cs false) fun _ =>
  andThen settle fun _ =>
  andThen (xfer t0 t1) fun r =>
  andThen settle fun _ =>
  andThen (drive .cs true) fun _ =>
  andThen settle fun _ =>
  ret r

/-- `MemWrite(r, 1, v)` (R112): one frame, its response discarded. -/
def regWrite (r v : Byte) : Op Unit := andThen (frame r v) fun _ => ret ()

/-- The register write of a configuration byte (R121): "if the write frame fails the chip's register is in an unknown
state", at whichever of its actions (log entry 13). -/
def cfgWrite (r v : Byte) : Op Unit := onError (regWrite r v) (loseRegister r)

/-- The byte of a no-operation frame's response that carries the register value (R76). -/
def respByte (cfg : Params) (r : Byte × Byte) : Byte :=
  match cfg.peRespIndex with
  | .byte0 => r.1
  | .byte1 => r.2

/-- `MemRead(r, 1)` (R113): a request frame, then a no-operation frame whose response carries the value. -/
def regRead (r : Byte) : Op Byte :=
  andThen (frame (readRequest r) 0x00) fun _ =>
  andThen (frame 0x00 0x00) fun resp =>
  andThen readCfg fun cfg =>
  ret (respByte cfg resp)

/-! ### The serial-input frame -/

/-- The load pulse (R141): `LOAD` low, 2 µs, `LOAD` high; no delay follows. -/
def loadPulse : Op Unit :=
  andThen (drive .load false) fun _ =>
  andThen settle fun _ =>
  drive .load true

/-- `read_frame()` (R141): pulse, request frame, assembly, header check, parity check. -/
def readFrame : Op Word :=
  andThen loadPulse fun _ =>
  andThen (frame Config.diRequest0 Config.diRequest1) fun r =>
  andThen (writeComb (combined r.1 r.2)) fun _ =>
  andThen readCfg fun cfg =>
  andThen (require (headerOk cfg (combined r.1 r.2)) .diParity) fun _ =>
  andThen (require (parityOk cfg (combined r.1 r.2)) .diParity) fun _ =>
  ret (combined r.1 r.2)

/-! ### Selection -/

/-- Driving the four select lines to a chip address, ascending, then the settle delay (R102, R103). -/
def selectAddress (a : ChipAddr) : Op Unit :=
  andThen (drive .a0 (a.getLsbD 0)) fun _ =>
  andThen (drive .a1 (a.getLsbD 1)) fun _ =>
  andThen (drive .a2 (a.getLsbD 2)) fun _ =>
  andThen (drive .a3 (a.getLsbD 3)) fun _ =>
  settle

/-! ### Running a command -/

/-- A command is accepted: the sequencer is at its start (R24). -/
def State.begin (s : State) (i : Instr) : State := { s with seq := .running i 0 }

/-- A command has ended, by its last event or by an error: the response is available and the sequencer is idle
(R190, R209, R211). -/
def State.complete (s : State) (w : Word) : State := { s with rsp := some w, seq := .idle }

/-- A command run to completion as one step (R24): accepted, its operation performed, the chips settled (R244), its
response returned. An error is a response like any other (R209). -/
def runCommand (i : Instr) (m : Op Value) (s : State) : Host.Outcome State Fault Refusal :=
  .next ((settleChips s (m (s.begin i)).2).complete (rspWord (m (s.begin i)).1))

/-- An operation with a unit result, as a command. -/
def asUnit {α : Type} (m : Op α) : Op Value := andThen m fun _ => ret .unit

end Sys2Proof.Machine
end

