-- ==== Sys2Proof/Machine/PortExpander.lean ====
section
/-! DEFINITION. The port-expander register protocol engine (spec/41_port_expander.md): its six operations, and the six
`FRAME16` frames they send. None of them selects. -/

namespace Sys2Proof.Machine

/-! ### The operations -/

/-- `check_port(p)` (R114): `IllegalOutput` unless `p` is in 4..31, before any interface action. -/
def checkPort (p : Byte) : Op Unit := require (portInRange p) .illegalOutput

/-- `PE_WRITE_PORT port, level` (R115): the port check, then the level check, then one write frame. -/
def opWritePort (l : Level) (p : Byte) : Op Unit :=
  andThen (checkPort p) fun _ =>
  match levelData? l with
  | none => raise .unsupportedLevel
  | some data => regWrite (portReg p) data

/-- `PE_READ_PORT port` (R116): the port check, then a register read reduced to a level. -/
def opReadPort (p : Byte) : Op Level :=
  andThen (checkPort p) fun _ =>
  andThen (regRead (portReg p)) fun v =>
  ret (levelOfByte v)

/-- `PE_CFG_BITS port, bits` (R121): the port check, then the read-modify-write of the configuration byte. -/
def opCfgBits (bits : BitVec 2) (p : Byte) : Op Unit :=
  andThen (checkPort p) fun _ =>
  andThen (regRead (cfgReg p)) fun old =>
  andThen (writeCfgtmp old) fun _ =>
  andThen (writeCfgtmp (updateField old (cfgOffset p) bits)) fun _ =>
  cfgWrite (cfgReg p) (updateField old (cfgOffset p) bits)

/-- `PE_CFG_OUTPUT port, initial_level` (R122): level first, then output mode. -/
def opCfgOutput (l : Level) (p : Byte) : Op Unit := andThen (opWritePort l p) fun _ => opCfgBits fieldOutput p

/-- `PE_CFG_INPUT port, enable_pullup` (R123). -/
def opCfgInput (pullup : Bool) (p : Byte) : Op Unit := opCfgBits (fieldInput pullup) p

/-- `PE_WAKEUP enable_irq` (R124): the global configuration register, written whole. -/
def opWakeup (enableIrq : Bool) : Op Unit := regWrite Config.peGcfgReg (wakeByte enableIrq)

/-! ### The commands -/

/-- `PE_WRITE_PORT` (R115). -/
def execPeWritePort (level : Level) (port : BitVec 8) (s : State) : Host.Outcome State Fault Refusal :=
  runCommand (.peWritePort level port) (asUnit (opWritePort level port)) s

/-- `PE_READ_PORT` (R116). -/
def execPeReadPort (port : BitVec 8) (s : State) : Host.Outcome State Fault Refusal :=
  runCommand (.peReadPort port) (andThen (opReadPort port) fun l => ret (.level l)) s

/-- `PE_CFG_OUTPUT` (R122). -/
def execPeCfgOutput (initialLevel : Level) (port : BitVec 8) (s : State) : Host.Outcome State Fault Refusal :=
  runCommand (.peCfgOutput initialLevel port) (asUnit (opCfgOutput initialLevel port)) s

/-- `PE_CFG_INPUT` (R123). -/
def execPeCfgInput (enablePullup : Bool) (port : BitVec 8) (s : State) : Host.Outcome State Fault Refusal :=
  runCommand (.peCfgInput enablePullup port) (asUnit (opCfgInput enablePullup port)) s

/-- `PE_CFG_BITS` (R121). -/
def execPeCfgBits (bits : BitVec 2) (port : BitVec 8) (s : State) : Host.Outcome State Fault Refusal :=
  runCommand (.peCfgBits bits port) (asUnit (opCfgBits bits port)) s

/-- `PE_WAKEUP` (R124). -/
def execPeWakeup (enableIrq : Bool) (s : State) : Host.Outcome State Fault Refusal :=
  runCommand (.peWakeup enableIrq) (asUnit (opWakeup enableIrq)) s

/-! ### The frames (R72; log entry 10) -/

/-- `F_PORT_WRITE`: the frame `[0x20 + p, d]`. -/
def execFPortWrite (p : BitVec 5) (d : Bool) (s : State) : Host.Outcome State Fault Refusal :=
  runCommand (.fPortWrite p d) (asUnit (frame (portReg (p.setWidth 8)) (bitByte d))) s

/-- `F_PORT_READ_REQ`: the frame `[0xA0 + p, 0x00]`. -/
def execFPortReadReq (p : BitVec 5) (s : State) : Host.Outcome State Fault Refusal :=
  runCommand (.fPortReadReq p) (asUnit (frame (readRequest (portReg (p.setWidth 8))) 0x00)) s

/-- `F_NOP`: the frame `[0x00, 0x00]`; its response carries the register value, in `BUF`. -/
def execFNop (s : State) : Host.Outcome State Fault Refusal := runCommand .fNop (asUnit (frame 0x00 0x00)) s

/-- `F_CFG_READ_REQ`: the frame `[0x88 | q, 0x00]`. -/
def execFCfgReadReq (q : BitVec 3) (s : State) : Host.Outcome State Fault Refusal :=
  runCommand (.fCfgReadReq q) (asUnit (frame (readRequest (Config.peCfgBase + q.setWidth 8)) 0x00)) s

/-- `F_CFG_WRITE`: the frame `[0x08 + q, c]`, the configuration write of R121. -/
def execFCfgWrite (q : BitVec 3) (c : BitVec 8) (s : State) : Host.Outcome State Fault Refusal :=
  runCommand (.fCfgWrite q c) (asUnit (cfgWrite (Config.peCfgBase + q.setWidth 8) c)) s

/-- `F_GCFG_WRITE`: the frame `[0x04, 0x01]` or `[0x04, 0x81]`. -/
def execFGcfgWrite (i : Bool) (s : State) : Host.Outcome State Fault Refusal :=
  runCommand (.fGcfgWrite i) (asUnit (frame Config.peGcfgReg (wakeByte i))) s

end Sys2Proof.Machine
end

