-- ==== Sys2Proof/Machine/Selector.lean ====
section
/-! DEFINITION. The Bank/Chip Selector (spec/40_selector.md): the operation `SELECT` and the twelve select codes. -/

namespace Sys2Proof.Machine

/-- `SELECT direction, bank` (R102), as an operation. -/
def opSelect (d : Direction) (b : Bank) : Op Unit := selectAddress (chipAddr d b)

/-- `SELECT` (R102). -/
def execSelect (direction : Direction) (bank : Bank) (s : State) : Host.Outcome State Fault Refusal :=
  runCommand (.select direction bank) (asUnit (opSelect direction bank)) s

/-- `SEL_OUT_1`: the select code 13 placed on the select lines (R70, R101, R102; log entry 10). -/
def execSelOut1 (s : State) : Host.Outcome State Fault Refusal := runCommand .selOut1 (asUnit (opSelect .dout .b1)) s

/-- `SEL_OUT_2`: the select code 12 (R101). -/
def execSelOut2 (s : State) : Host.Outcome State Fault Refusal := runCommand .selOut2 (asUnit (opSelect .dout .b2)) s

/-- `SEL_OUT_3`: the select code 11 (R101). -/
def execSelOut3 (s : State) : Host.Outcome State Fault Refusal := runCommand .selOut3 (asUnit (opSelect .dout .b3)) s

/-- `SEL_OUT_4`: the select code 10 (R101). -/
def execSelOut4 (s : State) : Host.Outcome State Fault Refusal := runCommand .selOut4 (asUnit (opSelect .dout .b4)) s

/-- `SEL_OUT_5`: the select code 9 (R101). -/
def execSelOut5 (s : State) : Host.Outcome State Fault Refusal := runCommand .selOut5 (asUnit (opSelect .dout .b5)) s

/-- `SEL_OUT_6`: the select code 8 (R101). -/
def execSelOut6 (s : State) : Host.Outcome State Fault Refusal := runCommand .selOut6 (asUnit (opSelect .dout .b6)) s

/-- `SEL_IN_1`: the select code 5 (R101). -/
def execSelIn1 (s : State) : Host.Outcome State Fault Refusal := runCommand .selIn1 (asUnit (opSelect .din .b1)) s

/-- `SEL_IN_2`: the select code 4 (R101). -/
def execSelIn2 (s : State) : Host.Outcome State Fault Refusal := runCommand .selIn2 (asUnit (opSelect .din .b2)) s

/-- `SEL_IN_3`: the select code 3 (R101). -/
def execSelIn3 (s : State) : Host.Outcome State Fault Refusal := runCommand .selIn3 (asUnit (opSelect .din .b3)) s

/-- `SEL_IN_4`: the select code 2 (R101). -/
def execSelIn4 (s : State) : Host.Outcome State Fault Refusal := runCommand .selIn4 (asUnit (opSelect .din .b4)) s

/-- `SEL_IN_5`: the select code 1 (R101). -/
def execSelIn5 (s : State) : Host.Outcome State Fault Refusal := runCommand .selIn5 (asUnit (opSelect .din .b5)) s

/-- `SEL_IN_6`: the select code 0 (R101). -/
def execSelIn6 (s : State) : Host.Outcome State Fault Refusal := runCommand .selIn6 (asUnit (opSelect .din .b6)) s

end Sys2Proof.Machine
end

