-- ==== Sys2Proof/Machine/SerialInput.lean ====
section
/-! DEFINITION. The serial-input frame decoder (spec/42_serial_input.md): the operation `DI_READ_BIT` and the request
frame `DIREQ16`. The decoder does not select. -/

namespace Sys2Proof.Machine

/-- `DI_READ_BIT index` (R146): the index check, before any interface action; then a whole frame read. -/
def opReadBit (index : Byte) : Op Bool :=
  andThen (require (index.toNat ≤ Config.indexMax) .illegalInput) fun _ =>
  andThen readFrame fun c =>
  ret (c.getLsbD index.toNat)

/-- `DI_READ_BIT` (R146). -/
def execDiReadBit (index : BitVec 8) (s : State) : Host.Outcome State Fault Refusal :=
  runCommand (.diReadBit index) (andThen (opReadBit index) fun b => ret (.bit b)) s

/-- `DIREQ16`: the request `[0x50, 0x00]`, preceded by the load pulse, its response assembled in `COMB` and validated
(R77, R78, R141; log entry 10). -/
def execDireq16 (s : State) : Host.Outcome State Fault Refusal := runCommand .direq16 (asUnit readFrame) s

end Sys2Proof.Machine
end

