-- ==== Sys2Proof/Machine/Facade.lean ====
section
/-! DEFINITION. The operation layer (spec/44_facade.md): the eight operations that validate, translate, select and
transfer (R180). -/

namespace Sys2Proof.Machine

/-! ### Validation and translation -/

/-- `check_logical(l, E)` and the translation to (bank, local) (R161, R162): pure, before any interface action. The
bank of a logical address in range always exists, so the last line is the defensive check that cannot fire (R163). -/
def locate (l : Byte) (e : ErrKind) : Op (Bank × Nat) :=
  andThen (require (logicalInRange l) e) fun _ =>
  match bankOfOrdinal? (logicalBankOrdinal l) with
  | some b => ret (b, logicalLocal l)
  | none => raise e

/-! ### Initialisation -/

/-- The port groups of `INIT` (R181): the 8 enable lines, the 8 status read-backs, supply sense, thermal sense. -/
def enablePorts : List Byte := [4, 5, 6, 7, 8, 9, 10, 11]

/-- Status read-backs (R181). -/
def statusPorts : List Byte := [12, 13, 14, 15, 16, 17, 18, 19]

/-- Supply sense (R181). -/
def supplyPorts : List Byte := [20, 21]

/-- Thermal sense (R181). -/
def thermalPorts : List Byte := [22, 23]

/-- `INIT` for one bank (R181): select, configure the ports group by group, wake the chip. -/
def initBank (b : Bank) : Op Unit :=
  andThen (opSelect .dout b) fun _ =>
  andThen (forEach enablePorts (opCfgOutput .hiz)) fun _ =>
  andThen (forEach statusPorts (opCfgInput true)) fun _ =>
  andThen (forEach supplyPorts (opCfgInput false)) fun _ =>
  andThen (forEach thermalPorts (opCfgInput true)) fun _ =>
  andThen readCfg fun cfg =>
  opWakeup cfg.initEnableIrq

/-- The banks, ascending (R181). -/
def allBanks : List Bank := [.b1, .b2, .b3, .b4, .b5, .b6]

/-! ### The operations -/

/-- `INIT` (R181). -/
def opInit : Op Unit := forEach allBanks initBank

/-- `SET_OUTPUT logical, level` (R182). -/
def opSetOutput (l : Level) (a : Byte) : Op Unit :=
  andThen (locate a .illegalOutput) fun bk =>
  andThen (opSelect .dout bk.1) fun _ =>
  opWritePort l (enablePort bk.2)

/-- Two port reads, in order, of the selected chip. -/
def readTwo (p q : Byte) : Op (Level × Level) :=
  andThen (opReadPort p) fun l =>
  andThen (opReadPort q) fun m =>
  ret (l, m)

/-- The supply of the selected output bank: ports 20 and 21 (R184, R185). -/
def readSupply : Op OutSupply :=
  andThen (readTwo 20 21) fun ls =>
  andThen readCfg fun cfg =>
  ret (outSupply cfg.outSupply ls.1 ls.2)

/-- `GET_OUTPUT_STATE logical` (R185). -/
def opGetOutputState (a : Byte) : Op LineState :=
  andThen (locate a .illegalOutput) fun bk =>
  andThen (opSelect .dout bk.1) fun _ =>
  andThen readSupply fun sup =>
  andThen (require (sup ≠ .unpowered) .illegalOutput) fun _ =>
  andThen (opReadPort (statePort bk.2)) fun l =>
  ret (lineOfLevel l)

/-- `GET_OUTPUT_SUPPLY bank` (R184). -/
def opGetOutputSupply (b : Bank) : Op SupplyState :=
  andThen (opSelect .dout b) fun _ =>
  andThen readSupply fun sup =>
  ret (outSupplyState sup)

/-- `GET_OUTPUT_THERMAL bank` (R183): both ports are always read. -/
def opGetOutputThermal (b : Bank) : Op ThermalState :=
  andThen (opSelect .dout b) fun _ =>
  andThen (readTwo 22 23) fun ls =>
  andThen readCfg fun cfg =>
  ret (outThermal cfg.outThermal ls.1 ls.2)

/-- `GET_INPUT logical` (R186). -/
def opGetInput (a : Byte) : Op Level :=
  andThen (locate a .illegalInput) fun bk =>
  andThen (opSelect .din bk.1) fun _ =>
  andThen (opReadBit (inputIndex bk.2)) fun x =>
  ret (levelOfBit x)

/-- `GET_INPUT_SUPPLY bank` (R188). -/
def opGetInputSupply (b : Bank) : Op SupplyState :=
  andThen (opSelect .din b) fun _ =>
  andThen (opReadBit supplyIndex) fun x =>
  ret (inSupply x)

/-- `GET_INPUT_THERMAL bank` (R187). -/
def opGetInputThermal (b : Bank) : Op ThermalState :=
  andThen (opSelect .din b) fun _ =>
  andThen (opReadBit thermalIndex) fun x =>
  ret (inThermal x)

/-! ### The commands -/

/-- `INIT` (R181). -/
def execInit (s : State) : Host.Outcome State Fault Refusal := runCommand .init (asUnit opInit) s

/-- `SET_OUTPUT` (R182). -/
def execSetOutput (level : Level) (logical : BitVec 8) (s : State) : Host.Outcome State Fault Refusal :=
  runCommand (.setOutput level logical) (asUnit (opSetOutput level logical)) s

/-- `GET_OUTPUT_STATE` (R185). -/
def execGetOutputState (logical : BitVec 8) (s : State) : Host.Outcome State Fault Refusal :=
  runCommand (.getOutputState logical) (andThen (opGetOutputState logical) fun v => ret (.line v)) s

/-- `GET_OUTPUT_SUPPLY` (R184). -/
def execGetOutputSupply (bank : Bank) (s : State) : Host.Outcome State Fault Refusal :=
  runCommand (.getOutputSupply bank) (andThen (opGetOutputSupply bank) fun v => ret (.supply v)) s

/-- `GET_OUTPUT_THERMAL` (R183). -/
def execGetOutputThermal (bank : Bank) (s : State) : Host.Outcome State Fault Refusal :=
  runCommand (.getOutputThermal bank) (andThen (opGetOutputThermal bank) fun v => ret (.thermal v)) s

/-- `GET_INPUT` (R186). -/
def execGetInput (logical : BitVec 8) (s : State) : Host.Outcome State Fault Refusal :=
  runCommand (.getInput logical) (andThen (opGetInput logical) fun v => ret (.level v)) s

/-- `GET_INPUT_SUPPLY` (R188). -/
def execGetInputSupply (bank : Bank) (s : State) : Host.Outcome State Fault Refusal :=
  runCommand (.getInputSupply bank) (andThen (opGetInputSupply bank) fun v => ret (.supply v)) s

/-- `GET_INPUT_THERMAL` (R187). -/
def execGetInputThermal (bank : Bank) (s : State) : Host.Outcome State Fault Refusal :=
  runCommand (.getInputThermal bank) (andThen (opGetInputThermal bank) fun v => ret (.thermal v)) s

end Sys2Proof.Machine
end

