-- ==== Sys2Proof/Machine/Dispatch.lean ====
section
/-! DEFINITION. The dispatch: one arm per row of spec/opcode_table.json. -/

namespace Sys2Proof.Machine

def exec (i : Instr) (s : State) : Host.Outcome State Fault Refusal :=
  match i with
  | .init => Sys2Proof.Machine.execInit s
  | .setOutput level logical => Sys2Proof.Machine.execSetOutput level logical s
  | .getOutputState logical => Sys2Proof.Machine.execGetOutputState logical s
  | .getOutputSupply bank => Sys2Proof.Machine.execGetOutputSupply bank s
  | .getOutputThermal bank => Sys2Proof.Machine.execGetOutputThermal bank s
  | .getInput logical => Sys2Proof.Machine.execGetInput logical s
  | .getInputSupply bank => Sys2Proof.Machine.execGetInputSupply bank s
  | .getInputThermal bank => Sys2Proof.Machine.execGetInputThermal bank s
  | .select direction bank => Sys2Proof.Machine.execSelect direction bank s
  | .peWritePort level port => Sys2Proof.Machine.execPeWritePort level port s
  | .peReadPort port => Sys2Proof.Machine.execPeReadPort port s
  | .peCfgOutput initialLevel port => Sys2Proof.Machine.execPeCfgOutput initialLevel port s
  | .peCfgInput enablePullup port => Sys2Proof.Machine.execPeCfgInput enablePullup port s
  | .peCfgBits bits port => Sys2Proof.Machine.execPeCfgBits bits port s
  | .peWakeup enableIrq => Sys2Proof.Machine.execPeWakeup enableIrq s
  | .diReadBit index => Sys2Proof.Machine.execDiReadBit index s
  | .fPortWrite p d => Sys2Proof.Machine.execFPortWrite p d s
  | .fPortReadReq p => Sys2Proof.Machine.execFPortReadReq p s
  | .fNop => Sys2Proof.Machine.execFNop s
  | .fCfgReadReq q => Sys2Proof.Machine.execFCfgReadReq q s
  | .fCfgWrite q c => Sys2Proof.Machine.execFCfgWrite q c s
  | .fGcfgWrite irq => Sys2Proof.Machine.execFGcfgWrite irq s
  | .direq16 => Sys2Proof.Machine.execDireq16 s
  | .selOut1 => Sys2Proof.Machine.execSelOut1 s
  | .selOut2 => Sys2Proof.Machine.execSelOut2 s
  | .selOut3 => Sys2Proof.Machine.execSelOut3 s
  | .selOut4 => Sys2Proof.Machine.execSelOut4 s
  | .selOut5 => Sys2Proof.Machine.execSelOut5 s
  | .selOut6 => Sys2Proof.Machine.execSelOut6 s
  | .selIn1 => Sys2Proof.Machine.execSelIn1 s
  | .selIn2 => Sys2Proof.Machine.execSelIn2 s
  | .selIn3 => Sys2Proof.Machine.execSelIn3 s
  | .selIn4 => Sys2Proof.Machine.execSelIn4 s
  | .selIn5 => Sys2Proof.Machine.execSelIn5 s
  | .selIn6 => Sys2Proof.Machine.execSelIn6 s

end Sys2Proof.Machine
end

