-- ==== Sys2Proof/Machine/Step.lean ====
section
/-! DEFINITION. One step of the machine: the sequencer accepts the word presented to the block, decodes it and runs it
to completion (spec/00_scope.md R6, spec/10_state.md R24, spec/30_encoding.md R82). -/

namespace Sys2Proof.Machine

/-- The word taken from the port. -/
def State.accept (s : State) : State := { s with port := none }

/-- One step. With no word presented the sequencer stays idle (R24). A word is accepted only when the sequencer is idle
(R6); a word that spells nothing is refused (R82); any other runs to completion. -/
def step (s : State) : Host.Outcome State Fault Refusal :=
  match s.port with
  | none => .next s
  | some w =>
    match s.seq with
    | .running _ _ => .fault .sequencerBusy
    | .idle =>
      match decodeWord s.cfg.exposeComponentOps w with
      | .error why => .refused (.spellsNothing why)
      | .ok i => exec i s.accept

/-- The caller presents a word of the opcode table at its boundary (log entries 9 and 10): the next step accepts it. -/
def State.withFetchWord (s : State) (nbits w : Nat) : State := { s with port := some (tablePortWord nbits w) }

end Sys2Proof.Machine
end

