-- ==== Sys2Proof/Safety.lean ====
section
/-! DEFINITION. The terms in which claims about the machine are stated: the trace, the premise `lines_idle`, an
environment that does not fail, the events of each sequence, what an instruction leaves alone, and the invariant. -/

namespace Sys2Proof.Machine

/-! ### The observable record (R7) -/

/-- The event trace, oldest event first (R7). -/
def State.trace (s : State) : List Event := s.log.reverse

/-- An exchange event, successful or failed. -/
def Event.isExchange : Event → Bool
  | .pin _ _ => false
  | .delay _ => false
  | .xfer _ _ _ _ => true
  | .xferFail _ _ => true

/-! ### Premises -/

/-- The launch premise `lines_idle` (R230): `CS = 1` and `LOAD = 1`. -/
abbrev LinesIdle (s : State) : Prop := s.lines.cs = true ∧ s.lines.load = true

/-- The rules describe what the next command does to the chips: the lines are idle when it begins (R241, R244), or the
reference responder answers, which looks at no latch but the select lines (R61, R66). -/
abbrev ChipsFollowRules (s : State) : Prop := s.env = .reference ∨ LinesIdle s

/-- The environment fails none of the next `n` interface actions that can fail: the reference responder answers (R61),
or the oracle's next `n` choices are written in the script and none is a failure. -/
abbrev Quiet (n : Nat) (s : State) : Prop :=
  s.env = .reference ∨ (n ≤ s.script.length ∧ ∀ c ∈ s.script.take n, c.fails = false)

/-- The select lines address the chip of a direction and bank (R25). -/
abbrev Addresses (s : State) (d : Direction) (b : Bank) : Prop := s.lines.address = chipAddr d b

/-! ### The events of each sequence -/

/-- The five events of a selection (R102). -/
def selectTrace (a : ChipAddr) : List Event :=
  [.pin .a0 (a.getLsbD 0), .pin .a1 (a.getLsbD 1), .pin .a2 (a.getLsbD 2), .pin .a3 (a.getLsbD 3),
    .delay Config.settleUs]

/-- The six events of a frame (R111). -/
def frameTrace (t0 t1 r0 r1 : Byte) : List Event :=
  [.pin .cs false, .delay Config.settleUs, .xfer t0 t1 r0 r1, .delay Config.settleUs, .pin .cs true,
    .delay Config.settleUs]

/-- The three events of the load pulse (R141). -/
def pulseTrace : List Event := [.pin .load false, .delay Config.settleUs, .pin .load true]

/-- The nine events of a serial-input frame read (R141). -/
def readFrameTrace (r0 r1 : Byte) : List Event :=
  pulseTrace ++ frameTrace Config.diRequest0 Config.diRequest1 r0 r1

/-- The twelve events of a register read of register byte `r` (R113): the request's response is `q`, the no-operation
frame's is `a`. -/
def regReadTrace (r : Byte) (q a : Byte × Byte) : List Event :=
  frameTrace (readRequest r) 0x00 q.1 q.2 ++ frameTrace 0x00 0x00 a.1 a.2

/-- One sequence of events after another, a sequence for each thing of a list, in the list's order. -/
def EachTrace {α : Type} (P : α → List Event → Prop) : List α → List Event → Prop
  | [], ev => ev = []
  | x :: xs, ev => ∃ first rest, ev = first ++ rest ∧ P x first ∧ EachTrace P xs rest

/-- The events of a configuration of port `p` to the field `bits` (R121): the two frames that read the configuration
byte, and the frame that writes it back with the field replaced in the byte just read. -/
def FieldTrace (cfg : Params) (bits : BitVec 2) (p : Byte) (ev : List Event) : Prop :=
  ∃ q a r : Byte × Byte, ev =
    frameTrace (0x88 ||| cfgIndex p) 0x00 q.1 q.2 ++ frameTrace 0x00 0x00 a.1 a.2 ++
      frameTrace (0x08 + cfgIndex p) (updateField (respByte cfg a) (cfgOffset p) bits) r.1 r.2

/-- The events of a configuration of port `p` as a high-impedance output (R122): the level, then the mode. -/
def HizOutputTrace (cfg : Params) (p : Byte) (ev : List Event) : Prop :=
  ∃ (w : Byte × Byte) (rest : List Event),
    ev = frameTrace (0x20 + p) 0x00 w.1 w.2 ++ rest ∧ FieldTrace cfg 0b01 p rest

/-- The events of `INIT` for one bank (R181): one selection; the enable ports 4 to 11 as outputs, the status ports 12
to 19 as inputs with pull-up, the supply ports 20 and 21 as inputs without, the thermal ports 22 and 23 with; last the
wake-up. -/
def InitBankTrace (cfg : Params) (b : Bank) (ev : List Event) : Prop :=
  ∃ (outputs status supply thermal : List Event) (w : Byte × Byte),
    ev = selectTrace (chipAddr .dout b) ++ outputs ++ status ++ supply ++ thermal ++
      frameTrace 0x04 (if cfg.initEnableIrq then 0x81 else 0x01) w.1 w.2 ∧
    EachTrace (HizOutputTrace cfg) [4, 5, 6, 7, 8, 9, 10, 11] outputs ∧
    EachTrace (FieldTrace cfg 0b11) [12, 13, 14, 15, 16, 17, 18, 19] status ∧
    EachTrace (FieldTrace cfg 0b10) [20, 21] supply ∧
    EachTrace (FieldTrace cfg 0b11) [22, 23] thermal

/-! ### What an instruction leaves alone -/

/-- What no instruction writes: the parameters, the environment's kind, the external signals, the port. -/
abbrev SameWorld (s t : State) : Prop :=
  t.cfg = s.cfg ∧ t.env = s.env ∧ t.pinIn = s.pinIn ∧ t.sensed = s.sensed ∧ t.port = s.port

/-- The working registers are as before (R22). -/
abbrev SameWorking (s t : State) : Prop :=
  t.buf0 = s.buf0 ∧ t.buf1 = s.buf1 ∧ t.comb = s.comb ∧ t.cfgtmp = s.cfgtmp

/-- Every byte of memory reads as before. -/
abbrev SameMem (s t : State) : Prop := ∀ a, memRead t.chips.regs a = memRead s.chips.regs a

/-- Every byte of memory outside an address reads as before. -/
abbrev SameMemExcept (x : Nat) (s t : State) : Prop :=
  ∀ a, a ≠ x → memRead t.chips.regs a = memRead s.chips.regs a

/-- The chips' hidden registers are as before: pending read values (R30) and frame registers (R31). -/
abbrev SameHidden (s t : State) : Prop := t.chips.pend = s.chips.pend ∧ t.chips.lat = s.chips.lat

/-- The command ran to an `Ok` response: `exec` answers the next state `t`, the response word is that of the value
`v`, exactly the events `ev` were added to the trace, the sequencer is idle, and the world is as before. -/
abbrev Completes (i : Instr) (s : State) (v : Value) (ev : List Event) (t : State) : Prop :=
  exec i s = .next t ∧ t.rsp = some (rspWord (.ok v)) ∧ t.trace = s.trace ++ ev ∧ t.seq = .idle ∧ SameWorld s t

/-- The command was turned away before any interface action: only the response changes, and it is the error `e`. -/
abbrev TurnedAway (i : Instr) (s : State) (e : ErrKind) : Prop :=
  exec i s = .next { s with rsp := some (rspWord (.err e)), seq := .idle }

/-! ### Groups of instructions -/

/-- The instruction of a select code (R101): the twelve `SEL_*` rows. -/
def selCode : Direction → Bank → Instr
  | .dout, .b1 => .selOut1
  | .dout, .b2 => .selOut2
  | .dout, .b3 => .selOut3
  | .dout, .b4 => .selOut4
  | .dout, .b5 => .selOut5
  | .dout, .b6 => .selOut6
  | .din, .b1 => .selIn1
  | .din, .b2 => .selIn2
  | .din, .b3 => .selIn3
  | .din, .b4 => .selIn4
  | .din, .b5 => .selIn5
  | .din, .b6 => .selIn6

/-- The instructions that send exactly one frame and answer nothing but `Ok` (R72, R115, R124), with the two bytes they
send: a port write of a level that has an encoding, a wake-up, and the six frames themselves. -/
inductive OneFrame : Instr → Byte → Byte → Prop where
  | writeHigh (p : Byte) (h : 4 ≤ p.toNat ∧ p.toNat ≤ 31) : OneFrame (.peWritePort .high p) (0x20 + p) 0x01
  | writeHiz (p : Byte) (h : 4 ≤ p.toNat ∧ p.toNat ≤ 31) : OneFrame (.peWritePort .hiz p) (0x20 + p) 0x00
  | wakeup : OneFrame (.peWakeup false) 0x04 0x01
  | wakeupIrq : OneFrame (.peWakeup true) 0x04 0x81
  | portWrite (p : BitVec 5) (d : Bool) (h : 4 ≤ p.toNat) :
      OneFrame (.fPortWrite p d) (0x20 + p.setWidth 8) (if d then 0x01 else 0x00)
  | portReadReq (p : BitVec 5) (h : 4 ≤ p.toNat) : OneFrame (.fPortReadReq p) (0xA0 + p.setWidth 8) 0x00
  | nop : OneFrame .fNop 0x00 0x00
  | cfgReadReq (q : BitVec 3) (h : 1 ≤ q.toNat) : OneFrame (.fCfgReadReq q) (0x88 ||| q.setWidth 8) 0x00
  | cfgWrite (q : BitVec 3) (c : Byte) (h : 1 ≤ q.toNat) : OneFrame (.fCfgWrite q c) (0x08 + q.setWidth 8) c
  | gcfgWrite : OneFrame (.fGcfgWrite false) 0x04 0x01
  | gcfgWriteIrq : OneFrame (.fGcfgWrite true) 0x04 0x81

/-- The instructions that write one configuration field and nothing else (R121, R123), with the field's bits and its
port. -/
inductive OneField : Instr → BitVec 2 → Byte → Prop where
  | bits (b : BitVec 2) (p : Byte) (h : 4 ≤ p.toNat ∧ p.toNat ≤ 31) : OneField (.peCfgBits b p) b p
  | input (p : Byte) (h : 4 ≤ p.toNat ∧ p.toNat ≤ 31) : OneField (.peCfgInput false p) 0b10 p
  | inputPullup (p : Byte) (h : 4 ≤ p.toNat ∧ p.toNat ≤ 31) : OneField (.peCfgInput true p) 0b11 p

/-- The instructions that only read or select (R47, R102): no byte of memory is theirs to change. -/
inductive StoresNothing : Instr → Prop where
  | outputState (l : BitVec 8) : StoresNothing (.getOutputState l)
  | outputSupply (b : Bank) : StoresNothing (.getOutputSupply b)
  | outputThermal (b : Bank) : StoresNothing (.getOutputThermal b)
  | input (l : BitVec 8) : StoresNothing (.getInput l)
  | inputSupply (b : Bank) : StoresNothing (.getInputSupply b)
  | inputThermal (b : Bank) : StoresNothing (.getInputThermal b)
  | select (d : Direction) (b : Bank) : StoresNothing (.select d b)
  | selCode (d : Direction) (b : Bank) : StoresNothing (selCode d b)
  | readPort (p : BitVec 8) : StoresNothing (.peReadPort p)
  | portReadReq (p : BitVec 5) : StoresNothing (.fPortReadReq p)
  | cfgReadReq (q : BitVec 3) : StoresNothing (.fCfgReadReq q)
  | nop : StoresNothing .fNop

/-- The operation-layer commands that reach the bus (R180): every one selects first. -/
inductive ReachesBus : Instr → Prop where
  | init : ReachesBus .init
  | setOutput (v : Level) (l : BitVec 8) (h : 1 ≤ l.toNat ∧ l.toNat ≤ 48) : ReachesBus (.setOutput v l)
  | outputState (l : BitVec 8) (h : 1 ≤ l.toNat ∧ l.toNat ≤ 48) : ReachesBus (.getOutputState l)
  | outputSupply (b : Bank) : ReachesBus (.getOutputSupply b)
  | outputThermal (b : Bank) : ReachesBus (.getOutputThermal b)
  | input (l : BitVec 8) (h : 1 ≤ l.toNat ∧ l.toNat ≤ 48) : ReachesBus (.getInput l)
  | inputSupply (b : Bank) : ReachesBus (.getInputSupply b)
  | inputThermal (b : Bank) : ReachesBus (.getInputThermal b)

/-- The instructions an output-side range check turns away (R202 (a), (b)): a logical address outside 1..48, a port
number outside 4..31. -/
inductive RefusedOutput : Instr → Prop where
  | setOutput (v : Level) (l : BitVec 8) (h : l.toNat < 1 ∨ 48 < l.toNat) : RefusedOutput (.setOutput v l)
  | outputState (l : BitVec 8) (h : l.toNat < 1 ∨ 48 < l.toNat) : RefusedOutput (.getOutputState l)
  | writePort (v : Level) (p : BitVec 8) (h : p.toNat < 4 ∨ 31 < p.toNat) : RefusedOutput (.peWritePort v p)
  | readPort (p : BitVec 8) (h : p.toNat < 4 ∨ 31 < p.toNat) : RefusedOutput (.peReadPort p)
  | cfgOutput (v : Level) (p : BitVec 8) (h : p.toNat < 4 ∨ 31 < p.toNat) : RefusedOutput (.peCfgOutput v p)
  | cfgInput (u : Bool) (p : BitVec 8) (h : p.toNat < 4 ∨ 31 < p.toNat) : RefusedOutput (.peCfgInput u p)
  | cfgBits (b : BitVec 2) (p : BitVec 8) (h : p.toNat < 4 ∨ 31 < p.toNat) : RefusedOutput (.peCfgBits b p)

/-- A register that `INIT` writes (R181): the global configuration register, the configuration registers of ports
4..23, the port registers of ports 4..11. -/
def initWrites (r : RegAddr) : Bool :=
  r == 0x04 || (0x09 ≤ r.toNat && r.toNat ≤ 0x0D) || (0x24 ≤ r.toNat && r.toNat ≤ 0x2B)

/-- What the level of a pin reads as: a signal is `High`, none is `Low` (R63, R75). -/
def pinLevel (b : Bool) : Level := if b then .high else .low

/-- A serial-input word passes both checks (R143, R144). -/
def wordAccepted (cfg : Params) (c : Word) : Bool := headerOk cfg c && parityOk cfg c

/-- `DI_HEADER` is a header: its bits lie under `DI_HEADER_MASK` (R5). -/
abbrev HeaderClean (cfg : Params) : Prop := cfg.diHeader &&& 0x07FF = 0

/-- Which `CMD16` words spell a command (R82), read off the table of R81: by opcode, what `aux` and `arg` may be. -/
def spellsCommand (expose : Bool) (w : Word) : Bool :=
  let op := (w.extractLsb' 12 4).toNat
  let aux := (w.extractLsb' 10 2).toNat
  let arg := (w.extractLsb' 0 8).toNat
  w.extractLsb' 8 2 == 0 && (expose || op ≤ 7) &&
    (if op ∈ [0x0, 0x2, 0x3, 0x4, 0x5, 0x6, 0x7, 0xA, 0xF] then aux == 0 else true) &&
    (if op ∈ [0x1, 0x9, 0xB] then aux != 3 else true) &&
    (if op ∈ [0x8, 0xC, 0xE] then aux ≤ 1 else true) &&
    (if op ∈ [0x3, 0x4, 0x6, 0x7, 0x8] then 1 ≤ arg && arg ≤ 6 else true) &&
    (if op ∈ [0x0, 0xE] then arg == 0 else true)

/-! ### The invariant -/

/-- A response word is one R85 and R86 allow and R205 leaves: bits 11:4 zero, status 0 to 7 and never 5, and a value
code only with status 0. -/
def rspOk (w : Word) : Bool :=
  w.extractLsb' 4 8 == 0 && (rspStatus w).toNat ≤ 7 && rspStatus w != 5 &&
    (rspStatus w == 0 || w.extractLsb' 0 4 == 0)

/-- What every step keeps: the memory in its canonical form, the sequencer idle between steps (R24, R211), and the
response port holding a word that an operation can return. -/
abbrev Inv (s : State) : Prop :=
  memWf s.chips.regs = true ∧ s.seq = .idle ∧ ∀ w, s.rsp = some w → rspOk w = true

end Sys2Proof.Machine
end

