-- ==== Sys2Proof/Certificates/Slice0/Obligations.lean ====
section
/-! DEFINITION. The statements for the provers. OBLIGATIONS.json lists them with the rules they rest on. -/

open Sys2Proof Sys2Proof.Machine

/-! ### Encoding -/

/-- Decode after encode (R70, R72, R77, R80, R81): every well-formed instruction, with every operand, comes back. -/
def Obligations.EncodedInstructionDecodesToItself : Prop :=
  ∀ i : Instr, i.wf = true → decodeWord true (encode i) = .ok i

/-- Encode after decode: a word that spells an instruction is the one word of that instruction at its boundary, and the
instruction is well formed, whatever `EXPOSE_COMPONENT_OPS` is. -/
def Obligations.DecodedWordIsTheEncodingOfItsInstruction : Prop :=
  ∀ (expose : Bool) (w : PortWord) (i : Instr), decodeWord expose w = .ok i → encode i = w ∧ i.wf = true

/-- R82: a word presented on the command port of an idle sequencer has a step exactly when it spells a command; a word
that spells none is refused, which leaves no next state, hence no event and no response. -/
def Obligations.CommandPortAcceptsExactlyTheCommandWords : Prop :=
  ∀ (s : State) (w : Word), s.port = some (.cmd w) → s.seq = .idle →
    (spellsCommand s.cfg.exposeComponentOps w = true → ∃ t, step s = .next t) ∧
    (spellsCommand s.cfg.exposeComponentOps w = false → ∃ why,
      decodeWord s.cfg.exposeComponentOps (.cmd w) = .error why ∧ step s = .refused (.spellsNothing why))

/-- A step runs the decoded instruction (R6, R24): the word is taken from the port and `exec` does the rest. The port
is the model's (log entry 9). -/
def Obligations.StepRunsTheDecodedInstruction : Prop :=
  ∀ (s : State) (w : PortWord) (i : Instr), s.port = some w → s.seq = .idle →
    decodeWord s.cfg.exposeComponentOps w = .ok i → step s = exec i { s with port := none }

/-- Words of spec/95_test_vectors.md section 2.8 and of the tables of R72 and R101 decode to what the spec says. -/
def Obligations.SampleWordsDecodeAsTheSpecSays : Prop :=
  decodeWord true (.cmd 0x0000) = .ok .init ∧
  decodeWord true (.cmd 0x1425) = .ok (.setOutput .high 37) ∧
  decodeWord true (.cmd 0x3006) = .ok (.getOutputSupply .b6) ∧
  decodeWord true (.cmd 0x8405) = .ok (.select .dout .b5) ∧
  decodeWord true (.cmd 0xDC1F) = .ok (.peCfgBits 3 31) ∧
  decodeWord true (.cmd 0xF009) = .ok (.diReadBit 9) ∧
  decodeWord true (.cmd 0x1C25) = .error .noLevel ∧
  decodeWord true (.cmd 0x3007) = .error .noBank ∧
  decodeWord true (.frame 0x2801) = .ok (.fPortWrite 8 true) ∧
  decodeWord true (.frame 0x5000) = .ok .direq16 ∧
  decodeWord true (.sel 9) = .ok .selOut5 ∧
  decodeWord true (.sel 14) = .error .noSelectCode

/-! ### Translation, fields, decodings -/

/-- R120, the packed configuration field: the formula and its laws, for every byte, offset and field value. -/
def Obligations.UpdateFieldChangesOnlyItsField : Prop :=
  ∀ (old : Byte) (off : Nat) (bits : BitVec 2), off ∈ [0, 2, 4, 6] →
    updateField old off bits = (old &&& ~~~((0b11 : Byte) <<< off) &&& 0xFF) ||| (bits.setWidth 8 <<< off) ∧
    cfgField (updateField old off bits) off = bits ∧
    (∀ k, k < 8 → k ≠ off → k ≠ off + 1 → (updateField old off bits).getLsbD k = old.getLsbD k) ∧
    (∀ bits' : BitVec 2, updateField (updateField old off bits') off bits = updateField old off bits) ∧
    (∀ (off' : Nat) (bits' : BitVec 2), off' ∈ [0, 2, 4, 6] → off' ≠ off →
      updateField (updateField old off bits) off' bits' = updateField (updateField old off' bits') off bits)

/-- R162: the translation of every logical address, its inverse, and both round trips; the operation `locate` is that
translation and changes nothing. -/
def Obligations.LogicalAddressesTranslateOneToOne : Prop :=
  (∀ l : BitVec 8, 1 ≤ l.toNat → l.toNat ≤ 48 → ∃ b : Bank,
    bankOrdinal b = (l.toNat - 1) / 8 + 1 ∧ logicalLocal l = (l.toNat - 1) % 8 + 1 ∧
    1 ≤ logicalLocal l ∧ logicalLocal l ≤ 8 ∧ (bankOrdinal b - 1) * 8 + logicalLocal l = l.toNat ∧
    ∀ (e : ErrKind) (s : State), locate l e s = (.ok (b, logicalLocal l), s)) ∧
  (∀ (b : Bank) (k : Nat), 1 ≤ k → k ≤ 8 →
    1 ≤ (bankOrdinal b - 1) * 8 + k ∧ (bankOrdinal b - 1) * 8 + k ≤ 48 ∧
    ∀ (e : ErrKind) (s : State), locate (BitVec.ofNat 8 ((bankOrdinal b - 1) * 8 + k)) e s = (.ok (b, k), s))

/-- R101: `chip_addr` is total and injective; outputs are 14 - bank, inputs 6 - bank; 6, 7, 14 and 15 are not in its
range, and exactly the other addresses have a chip, the one the address names. -/
def Obligations.ChipAddressesAreTheTwelveOfTheTable : Prop :=
  (∀ b : Bank, (chipAddr .dout b).toNat = 14 - bankOrdinal b ∧ (chipAddr .din b).toNat = 6 - bankOrdinal b) ∧
  (∀ (d d' : Direction) (b b' : Bank), chipAddr d b = chipAddr d' b' → d = d' ∧ b = b') ∧
  (∀ a : ChipAddr, (∃ d b, chipAddr d b = a) ↔ a.toNat ∈ [0, 1, 2, 3, 4, 5, 8, 9, 10, 11, 12, 13]) ∧
  (∀ (a : ChipAddr) (d : Direction) (b : Bank), chipAt a = some (d, b) ↔ chipAddr d b = a)

/-- R73: for every port 4..31 the sums and the bitwise ORs are the same byte, in the ranges the rule gives. -/
def Obligations.RegisterBytesOfPorts : Prop :=
  ∀ p : Byte, 4 ≤ p.toNat → p.toNat ≤ 31 →
    portReg p = 0x20 + p ∧ 0x20 + p = 0x20 ||| p ∧ (portReg p).toNat = 0x20 + p.toNat ∧
    readRequest (portReg p) = 0xA0 + p ∧ 0xA0 + p = 0xA0 ||| p ∧ 0xA0 ||| p = 0x80 ||| (0x20 + p) ∧
    (readRequest (portReg p)).toNat = 0xA0 + p.toNat ∧
    (cfgIndex p).toNat = p.toNat / 4 ∧ 1 ≤ (cfgIndex p).toNat ∧ (cfgIndex p).toNat ≤ 7 ∧
    cfgReg p = 0x08 + cfgIndex p ∧ 0x08 + cfgIndex p = 0x08 ||| cfgIndex p ∧
    (cfgReg p).toNat = 0x08 + p.toNat / 4 ∧
    readRequest (cfgReg p) = 0x88 ||| cfgIndex p ∧ 0x88 ||| cfgIndex p = 0x80 ||| (0x08 + cfgIndex p) ∧
    (readRequest (cfgReg p)).toNat = 0x88 + p.toNat / 4 ∧
    cfgOffset p = p.toNat % 4 * 2 ∧ cfgOffset p ∈ [0, 2, 4, 6]

/-- R142: the combined word is the second byte, bit-reversed, over the first; with the rule's worked example. -/
def Obligations.CombinedWordIsReversedSecondByteOverFirst : Prop :=
  (∀ (r0 r1 : Byte), (combined r0 r1).extractLsb' 0 8 = r0 ∧ (combined r0 r1).extractLsb' 8 8 = rev8 r1 ∧
    ∀ j, j < 8 → (combined r0 r1).getLsbD (8 + j) = r1.getLsbD (7 - j)) ∧
  rev8 0x6A = 0x56 ∧ combined 0x01 0x6A = 0x5601

/-- R143, R144, R145 with the header 0x5000: the words that pass the header check are 0x5000..0x57FF; of these
`AS_IMPLEMENTED` accepts exactly those with an odd number of set bits among bits 10..0, `AGREEMENT` exactly those with
an even number, as 0x5001 and 0x5401 show; for each value of the ten data bits exactly one value of bit 10 is accepted;
flipping any one of bits 10..0 of an accepted word gives a rejected word; and the two parity modes accept complementary
halves of the words that pass the header check. -/
def Obligations.SerialWordAcceptance : Prop :=
  (∀ (cfg : Params) (c : Word), cfg.diHeader = 0x5000 →
    (headerOk cfg c = true ↔ 0x5000 ≤ c.toNat ∧ c.toNat ≤ 0x57FF) ∧
    (headerOk cfg c = true → cfg.diParityMode = .asImplemented →
      (wordAccepted cfg c = true ↔ popcount (c &&& 0x07FF) % 2 = 1)) ∧
    (headerOk cfg c = true → cfg.diParityMode = .agreement →
      (wordAccepted cfg c = true ↔ popcount (c &&& 0x07FF) % 2 = 0)) ∧
    (headerOk cfg c = true → wordAccepted cfg (c ^^^ (1 <<< 10)) = !wordAccepted cfg c) ∧
    (∀ k, k < 11 → wordAccepted cfg c = true → wordAccepted cfg (c ^^^ (1 <<< k)) = false) ∧
    (headerOk cfg c = true → wordAccepted { cfg with diParityMode := .asImplemented } c =
      !wordAccepted { cfg with diParityMode := .agreement } c)) ∧
  wordAccepted Params.default 0x5001 = true ∧ wordAccepted Params.default 0x5401 = false ∧
  wordAccepted { Params.default with diParityMode := .agreement } 0x5001 = false ∧
  wordAccepted { Params.default with diParityMode := .agreement } 0x5401 = true

/-- R175: `toggle`. -/
def Obligations.ToggleIsAnInvolution : Prop :=
  toggle .high = .low ∧ toggle .low = .high ∧ toggle .hiz = .hiz ∧ ∀ l, toggle (toggle l) = l

/-- R75: the data byte of a level and the level of a byte read. `High` is 0x01, `HighImpedance` 0x00, `Low` has no
encoding; a read is `High` for every byte but 0x00, and never `HighImpedance`; the two directions are not inverses. -/
def Obligations.LevelBytesInBothDirections : Prop :=
  levelData? .high = some 0x01 ∧ levelData? .hiz = some 0x00 ∧ levelData? .low = none ∧
  (∀ v : Byte, levelOfByte v = if v = 0x00 then .low else .high) ∧ (∀ v : Byte, levelOfByte v ≠ .hiz) ∧
  (levelData? .hiz).map levelOfByte = some .low

/-- R164, R165: the physical addresses of local port `k` of bank `b` on both sides, the sense ports and the diagnostic
bits, with the source's examples (logical 37 and 9). -/
def Obligations.PhysicalAddressesOfAChannel : Prop :=
  (∀ (b : Bank) (k : Nat), 1 ≤ k → k ≤ 8 →
    (chipAddr .dout b).toNat = 14 - bankOrdinal b ∧ (enablePort k).toNat = k + 3 ∧
    (portReg (enablePort k)).toNat = 0x20 + k + 3 ∧
    0x24 ≤ (portReg (enablePort k)).toNat ∧ (portReg (enablePort k)).toNat ≤ 0x2B ∧
    (statePort k).toNat = k + 11 ∧ (statePort k).toNat = (k - 1) + 12 ∧
    (readRequest (portReg (statePort k))).toNat = 0xA0 + k + 11 ∧
    0xAC ≤ (readRequest (portReg (statePort k))).toNat ∧ (readRequest (portReg (statePort k))).toNat ≤ 0xB3 ∧
    (chipAddr .din b).toNat = 6 - bankOrdinal b ∧ (inputIndex k).toNat = k - 1) ∧
  readRequest (portReg 20) = 0xB4 ∧ readRequest (portReg 21) = 0xB5 ∧ readRequest (portReg 22) = 0xB6 ∧
  readRequest (portReg 23) = 0xB7 ∧ thermalIndex = 8 ∧ supplyIndex = 9 ∧
  logicalBankOrdinal 37 = 5 ∧ logicalLocal 37 = 5 ∧ portReg (enablePort 5) = 0x28 ∧ statePort 5 = 16 ∧
  logicalBankOrdinal 9 = 2 ∧ logicalLocal 9 = 1 ∧ inputIndex 1 = 0

/-- R85 and R86: the response word of every result: its status is 0 exactly for a success, bits 11:4 are zero, and the
value field is zero with an error; and the code of every value and of every error, each as the whole word. -/
def Obligations.ResponseWordFields : Prop :=
  rspWord (.ok .unit) = 0x0000 ∧
  rspWord (.ok (.bit false)) = 0x0000 ∧ rspWord (.ok (.bit true)) = 0x0001 ∧
  rspWord (.ok (.level .low)) = 0x0000 ∧ rspWord (.ok (.level .high)) = 0x0001 ∧ rspWord (.ok (.level .hiz)) = 0x0002 ∧
  rspWord (.ok (.line .normal)) = 0x0000 ∧ rspWord (.ok (.line .openOrFault)) = 0x0001 ∧
  rspWord (.ok (.supply .unpowered)) = 0x0000 ∧ rspWord (.ok (.supply .powered)) = 0x0001 ∧
  rspWord (.ok (.supply .v12)) = 0x0002 ∧ rspWord (.ok (.supply .v24)) = 0x0003 ∧
  rspWord (.ok (.thermal .normal)) = 0x0000 ∧ rspWord (.ok (.thermal .warm)) = 0x0001 ∧
  rspWord (.ok (.thermal .hot)) = 0x0002 ∧
  rspWord (.err .illegalInput) = 0x1000 ∧ rspWord (.err .illegalOutput) = 0x2000 ∧
  rspWord (.err .unsupportedLevel) = 0x3000 ∧ rspWord (.err .diParity) = 0x4000 ∧
  rspWord (.err .notPresent) = 0x5000 ∧ rspWord (.err (.transport .busExchange)) = 0x6000 ∧
  rspWord (.err (.transport .pinDrive)) = 0x7000 ∧
  (∀ v : Value, (rspWord (.ok v)).extractLsb' 12 4 = 0 ∧ (rspWord (.ok v)).extractLsb' 4 8 = 0 ∧
    (rspWord (.ok v)).extractLsb' 0 4 = valueCode v) ∧
  (∀ e : ErrKind, (rspWord (.err e)).extractLsb' 12 4 = errCode e ∧ errCode e ≠ 0 ∧
    (rspWord (.err e)).extractLsb' 4 8 = 0 ∧ (rspWord (.err e)).extractLsb' 0 4 = 0)

/-- R174: the decodings of the input diagnostics and of the output line state. -/
def Obligations.InputDiagnosticDecodings : Prop :=
  inThermal false = .hot ∧ inThermal true = .normal ∧ (∀ b, inThermal b ≠ .warm) ∧
  inSupply true = .powered ∧ inSupply false = .unpowered ∧
  lineOfLevel .high = .normal ∧ lineOfLevel .low = .openOrFault

/-- R172 and R173, what every choice of the open parameters keeps: an asserted Hot bit gives `Hot` whatever the Warm bit
is, the Warm bit alone `Warm`, neither `Normal`; an output bank is never `Powered`. And their default tables (D14, D15:
the spec's own choice). -/
def Obligations.OutputDiagnosticDecodings : Prop :=
  (∀ (t : ThermalDecode) (l m : Level),
    (diagAsserted t.hot l m = true → outThermal t l m = .hot) ∧
    (diagAsserted t.hot l m = false → diagAsserted t.warm l m = true → outThermal t l m = .warm) ∧
    (diagAsserted t.hot l m = false → diagAsserted t.warm l m = false → outThermal t l m = .normal)) ∧
  (∀ (d : SupplyDecode) (l m : Level), outSupplyState (outSupply d l m) ≠ .powered) ∧
  outThermal Params.default.outThermal .high .high = .normal ∧
  outThermal Params.default.outThermal .low .high = .warm ∧
  outThermal Params.default.outThermal .high .low = .hot ∧
  outThermal Params.default.outThermal .low .low = .hot ∧
  outSupply Params.default.outSupply .low .low = .unpowered ∧
  outSupply Params.default.outSupply .high .low = .v12 ∧
  outSupply Params.default.outSupply .high .high = .v24 ∧
  outSupply Params.default.outSupply .low .high = .v24

/-! ### Selection -/

/-- `SELECT` and the twelve select codes `SEL_OUT_1` to `SEL_OUT_6`, `SEL_IN_1` to `SEL_IN_6` (R102, R103): with an
environment that fails none of the four drives, exactly the five events in ascending order, the select lines hold the
chip address, `CS`, `LOAD` and the working registers are as before, and, the lines being idle, no chip changes. The
select codes as instructions are the model's reading (log entry 10). -/
def Obligations.SelectPlacesTheChipAddress : Prop :=
  ∀ (i : Instr) (d : Direction) (b : Bank) (s : State), (i = .select d b ∨ i = selCode d b) → Quiet 4 s →
    ∃ t, Completes i s .unit (selectTrace (chipAddr d b)) t ∧
      t.lines = { s.lines with
        a0 := (chipAddr d b).getLsbD 0, a1 := (chipAddr d b).getLsbD 1,
        a2 := (chipAddr d b).getLsbD 2, a3 := (chipAddr d b).getLsbD 3 } ∧
      Addresses t d b ∧ SameWorking s t ∧ (ChipsFollowRules s → t.chips = s.chips)

/-- R104: a `SELECT`, or a select code as an instruction (log entry 10), whose drive of `A[k]` fails stops there: the
lines below `k` hold the new bits, the lines above keep their levels, no later drive and no settle delay is performed,
and the answer is `Transport(PinDrive)`. That `A[k]`, which R104 leaves unspecified, holds the draw the script gives
and that the script is consumed up to there is the model's form of the environment (log entries 1, 13), and so is that
a failed drive of a select line, the lines being idle before, changes no chip (log entries 12, 13). -/
def Obligations.SelectStopsAtTheFailedDrive : Prop :=
  ∀ (i : Instr) (d : Direction) (b : Bank) (s : State) (good rest : List EnvChoice) (bad : EnvChoice),
    (i = .select d b ∨ i = selCode d b) → s.env = .oracle → s.cfg.pinDriveCanFail = true →
    s.script = good ++ bad :: rest → good.length < 4 → (∀ c ∈ good, c.fails = false) → bad.fails = true →
    ∃ t, exec i s = .next t ∧ t.rsp = some 0x7000 ∧
      t.trace = s.trace ++ (selectTrace (chipAddr d b)).take (good.length + 1) ∧
      (∀ j, j < 4 → t.lines.get ([Line.a0, .a1, .a2, .a3].getD j .a0) =
        if j < good.length then (chipAddr d b).getLsbD j
        else if j = good.length then bad.b0.getLsbD 0
        else s.lines.get ([Line.a0, .a1, .a2, .a3].getD j .a0)) ∧
      t.lines.cs = s.lines.cs ∧ t.lines.load = s.lines.load ∧ SameWorking s t ∧ t.script = rest ∧
      (LinesIdle s → t.chips = s.chips)

/-! ### The port-expander engine -/

/-- The instructions of one frame (R72, R111, R115, R124), which are `PE_WRITE_PORT` of a level that can be written,
`PE_WAKEUP`, `F_PORT_WRITE`, `F_PORT_READ_REQ`, `F_NOP`, `F_CFG_READ_REQ`, `F_CFG_WRITE` and `F_GCFG_WRITE`, complete:
exactly the six events of the frame with the two bytes of the table, the two received bytes in `BUF`, `CS` high again,
the other latches and working registers as before. The frames as instructions are the model's (log entry 10). -/
def Obligations.OneFrameInstructionsSendTheirFrame : Prop :=
  ∀ (i : Instr) (t0 t1 : Byte) (s : State), OneFrame i t0 t1 → Quiet 3 s →
    ∃ r0 r1 t, Completes i s .unit (frameTrace t0 t1 r0 r1) t ∧ t.buf0 = r0 ∧ t.buf1 = r1 ∧
      t.comb = s.comb ∧ t.cfgtmp = s.cfgtmp ∧ t.lines = { s.lines with cs := true }

/-- A write frame (R50, R62, R112) from idle lines stores its data byte in the register it names of the addressed
port expander and leaves every other byte, every pending read value and every frame register as it was; with no port
expander addressed it leaves every chip as it was. That the chips follow R62 with the oracle too is the model's choice
(log entry 11). -/
def Obligations.WriteFrameStoresOneByte : Prop :=
  ∀ (i : Instr) (t0 t1 : Byte) (s : State), OneFrame i t0 t1 → t0.getLsbD 7 = false → t0 ≠ 0x00 → Quiet 3 s →
    ChipsFollowRules s → memWf s.chips.regs = true →
    ∃ t, exec i s = .next t ∧
      (∀ b, Addresses s .dout b → memRead t.chips.regs (regAddr b (regOf t0)) = t1 ∧
        SameMemExcept (regAddr b (regOf t0)) s t ∧ SameHidden s t) ∧
      ((∀ b, ¬Addresses s .dout b) → t.chips = s.chips)

/-- A read-request frame (R30, R62, R63) from idle lines stores nothing and makes the addressed port expander capture
the register's value: of a port register only when the chip is awake (the captured value is otherwise a draw), the
last byte written for an output port, the signal at the pin for any other. The other chips' pending values and every
frame register stay; the no-operation frame changes no chip. That the chips follow R62 with the oracle too is the
model's choice (log entry 11). -/
def Obligations.RequestFrameCapturesTheRegister : Prop :=
  ∀ (i : Instr) (t0 t1 : Byte) (s : State), OneFrame i t0 t1 → (t0.getLsbD 7 = true ∨ t0 = 0x00) → Quiet 3 s →
    ChipsFollowRules s →
    ∃ t, exec i s = .next t ∧ t.chips.regs = s.chips.regs ∧ t.chips.lat = s.chips.lat ∧
      (t0 = 0x00 → t.chips.pend = s.chips.pend) ∧
      ((∀ b, ¬Addresses s .dout b) → t.chips.pend = s.chips.pend) ∧
      (t0.getLsbD 7 = true → ∀ b, Addresses s .dout b →
        (∀ b', b' ≠ b → t.chips.pend.get b' = s.chips.pend.get b') ∧
        (isPortReg (regOf t0) = false → t.chips.pend.get b = s.chips.reg b (regOf t0)) ∧
        (isPortReg (regOf t0) = true → s.chips.awake b = true → t.chips.pend.get b =
          if s.chips.portField b ((regOf t0).toNat - 0x20) = 0b01 then s.chips.reg b (regOf t0)
          else if (s.pinIn.get b).getLsbD ((regOf t0).toNat - 0x20) then 0x01 else 0x00))

/-- `PE_READ_PORT` (R113, R116): the request frame, the no-operation frame, and the level of the response byte that
`PE_RESP_INDEX` names, nonzero for `High`; from idle lines no byte of memory changes. The clause on memory is the
model's (log entry 11). -/
def Obligations.ReadPortReturnsTheResponseByte : Prop :=
  ∀ (p : Byte) (s : State), 4 ≤ p.toNat → p.toNat ≤ 31 → Quiet 6 s →
    ∃ q0 q1 a0 a1 t,
      Completes (.peReadPort p) s
        (.level (if (match s.cfg.peRespIndex with | .byte0 => a0 | .byte1 => a1) = 0x00 then .low else .high))
        (frameTrace (0xA0 + p) 0x00 q0 q1 ++ frameTrace 0x00 0x00 a0 a1) t ∧
      t.buf0 = a0 ∧ t.buf1 = a1 ∧ t.comb = s.comb ∧ t.cfgtmp = s.cfgtmp ∧ t.lines = { s.lines with cs := true } ∧
      (ChipsFollowRules s → t.chips.regs = s.chips.regs ∧ t.chips.lat = s.chips.lat ∧
        ∀ b, ¬Addresses s .dout b → t.chips.pend.get b = s.chips.pend.get b)

/-- `PE_CFG_BITS` and `PE_CFG_INPUT` (R121, R123): two frames read the configuration byte, one writes it back with the
one field replaced; the new byte is in `CFGTMP` and, from idle lines, in the register of the addressed port expander,
every other byte of memory being as before. The clauses on chip contents are the model's (log entry 11). -/
def Obligations.CfgFieldIsReadModifyWritten : Prop :=
  ∀ (i : Instr) (bits : BitVec 2) (p : Byte) (s : State), OneField i bits p → Quiet 9 s →
    ∃ q0 q1 a0 a1 r0 r1 v t,
      v = updateField (match s.cfg.peRespIndex with | .byte0 => a0 | .byte1 => a1) (cfgOffset p) bits ∧
      Completes i s .unit
        (frameTrace (0x88 ||| cfgIndex p) 0x00 q0 q1 ++ frameTrace 0x00 0x00 a0 a1 ++
          frameTrace (0x08 + cfgIndex p) v r0 r1) t ∧
      t.cfgtmp = v ∧ t.buf0 = r0 ∧ t.buf1 = r1 ∧ t.comb = s.comb ∧ t.lines = { s.lines with cs := true } ∧
      (ChipsFollowRules s → memWf s.chips.regs = true → t.chips.lat = s.chips.lat ∧
        (∀ b, ¬Addresses s .dout b → t.chips.pend.get b = s.chips.pend.get b) ∧
        (∀ b, Addresses s .dout b → memRead t.chips.regs (regAddr b (regOf (cfgReg p))) = v ∧
          SameMemExcept (regAddr b (regOf (cfgReg p))) s t) ∧
        ((∀ b, ¬Addresses s .dout b) → t.chips = s.chips))

/-- `PE_CFG_OUTPUT` (R122): the level's write frame first, then the read-modify-write of the field to 01; from idle
lines two registers of the addressed port expander change, the port's and its configuration register. The clauses on
chip contents are the model's (log entry 11). -/
def Obligations.CfgOutputWritesLevelThenMode : Prop :=
  ∀ (l : Level) (p : Byte) (s : State), l ≠ .low → 4 ≤ p.toNat → p.toNat ≤ 31 → Quiet 12 s →
    ∃ w0 w1 q0 q1 a0 a1 r0 r1 v t,
      v = updateField (match s.cfg.peRespIndex with | .byte0 => a0 | .byte1 => a1) (cfgOffset p) 0b01 ∧
      Completes (.peCfgOutput l p) s .unit
        (frameTrace (0x20 + p) (if l = .high then 0x01 else 0x00) w0 w1 ++
          (frameTrace (0x88 ||| cfgIndex p) 0x00 q0 q1 ++ frameTrace 0x00 0x00 a0 a1 ++
            frameTrace (0x08 + cfgIndex p) v r0 r1)) t ∧
      t.cfgtmp = v ∧ t.buf0 = r0 ∧ t.buf1 = r1 ∧ t.comb = s.comb ∧ t.lines = { s.lines with cs := true } ∧
      (ChipsFollowRules s → memWf s.chips.regs = true → t.chips.lat = s.chips.lat ∧
        (∀ b, ¬Addresses s .dout b → t.chips.pend.get b = s.chips.pend.get b) ∧
        (∀ b, Addresses s .dout b →
          memRead t.chips.regs (regAddr b (regOf (portReg p))) = (if l = .high then 0x01 else 0x00) ∧
          memRead t.chips.regs (regAddr b (regOf (cfgReg p))) = v ∧
          ∀ a, a ≠ regAddr b (regOf (portReg p)) → a ≠ regAddr b (regOf (cfgReg p)) →
            memRead t.chips.regs a = memRead s.chips.regs a) ∧
        ((∀ b, ¬Addresses s .dout b) → t.chips = s.chips))

/-- On the reference responder a field update sets the field of its port and leaves the field of every other port, and
every register but the one byte, as it was (R120, R121, and the source's property S5). It holds of a chip that is not
awake too, because a configuration register reads back as stored, awake or not (R63, log entry 14). -/
def Obligations.FieldUpdateKeepsTheOtherPorts : Prop :=
  ∀ (i : Instr) (bits : BitVec 2) (p : Byte) (s : State) (b : Bank), OneField i bits p → s.env = .reference →
    memWf s.chips.regs = true → Addresses s .dout b →
    ∃ t, exec i s = .next t ∧ t.rsp = some 0x0000 ∧ t.chips.portField b p.toNat = bits ∧
      (∀ p', 4 ≤ p' → p' ≤ 31 → p' ≠ p.toNat → t.chips.portField b p' = s.chips.portField b p') ∧
      SameMemExcept (regAddr b (regOf (cfgReg p))) s t

/-- On the reference responder an awake chip's output port reads back what was written: `High` as `High`, and
`HighImpedance` as `Low`, never as `HighImpedance` (R63, R75, R249). -/
def Obligations.OutputPortReadsBackWhatWasWritten : Prop :=
  ∀ (l : Level) (p : Byte) (s : State) (b : Bank), l ≠ .low → 4 ≤ p.toNat → p.toNat ≤ 31 → s.env = .reference →
    memWf s.chips.regs = true → Addresses s .dout b → s.chips.awake b = true →
    s.chips.portField b p.toNat = 0b01 →
    ∃ t u, exec (.peWritePort l p) s = .next t ∧ t.rsp = some 0x0000 ∧ exec (.peReadPort p) t = .next u ∧
      u.rsp = some (rspWord (.ok (.level (if l = .high then .high else .low))))

/-- On the reference responder an awake chip's input port reads the signal at its pin (R63, R116). -/
def Obligations.InputPortReadsItsPin : Prop :=
  ∀ (p : Byte) (s : State) (b : Bank), 4 ≤ p.toNat → p.toNat ≤ 31 → s.env = .reference →
    Addresses s .dout b → s.chips.awake b = true → s.chips.portField b p.toNat ≠ 0b01 →
    ∃ t, exec (.peReadPort p) s = .next t ∧
      t.rsp = some (rspWord (.ok (.level (pinLevel ((s.pinIn.get b).getLsbD p.toNat))))) ∧
      SameMem s t

/-! ### The serial-input decoder -/

/-- `DI_READ_BIT` with an index 0..9 and the request frame (R141 to R146): the nine events, the received bytes in
`BUF`, the combined word in `COMB`, both lines high again; the answer is the bit (or a plain `Ok`) when the word
passes the header check and the parity check, and `DiParity` when it does not. From idle lines no byte of memory
changes, but for register 0x50 of a port expander the request was sent to (R247). `DIREQ16` as an instruction and
register 0x50 are the model's (log entries 10, 28). -/
def Obligations.ReadFrameThenValidates : Prop :=
  ∀ (i : Instr) (v : Word → Value) (s : State),
    (i = .direq16 ∧ (∀ c, v c = .unit) ∨
      ∃ k : Byte, k.toNat ≤ 9 ∧ i = .diReadBit k ∧ ∀ c, v c = .bit (c.getLsbD k.toNat)) → Quiet 5 s →
    ∃ r0 r1 t, exec i s = .next t ∧ t.trace = s.trace ++ readFrameTrace r0 r1 ∧ t.buf0 = r0 ∧ t.buf1 = r1 ∧
      t.comb = combined r0 r1 ∧ t.cfgtmp = s.cfgtmp ∧ t.lines = { s.lines with cs := true, load := true } ∧
      (wordAccepted s.cfg (combined r0 r1) = true → t.rsp = some (rspWord (.ok (v (combined r0 r1))))) ∧
      (wordAccepted s.cfg (combined r0 r1) = false → t.rsp = some 0x4000) ∧
      (ChipsFollowRules s → t.chips.pend = s.chips.pend) ∧
      (ChipsFollowRules s → (∀ b, ¬Addresses s .dout b) → SameMem s t) ∧
      (ChipsFollowRules s → ∀ b, Addresses s .dout b → SameMemExcept (regAddr b 0x50) s t)

/-- On the reference responder, with an input chip addressed (R64): the pulse makes every serial-input chip latch its
sensed data, the frame validates, and `DI_READ_BIT` answers the sensed bit; `DIREQ16` leaves the chip's frame in
`COMB`. `DIREQ16` as an instruction is the model's (log entry 10), and so is that the chip sends whatever header
`DI_HEADER` says, where R64 writes the default 0x5000 (log entry 20). -/
def Obligations.SensedBitIsReadBack : Prop :=
  ∀ (s : State) (b : Bank), s.env = .reference → HeaderClean s.cfg → Addresses s .din b →
    (∀ k : Byte, k.toNat ≤ 9 → ∃ r0 r1 t,
      Completes (.diReadBit k) s (.bit ((s.sensed.get b).getLsbD k.toNat)) (readFrameTrace r0 r1) t ∧
        t.comb = sampledWord s.cfg (s.sensed.get b) ∧
        (∀ b', t.chips.lat.get b' = sampledWord s.cfg (s.sensed.get b')) ∧ t.chips.regs = s.chips.regs ∧
        t.chips.pend = s.chips.pend) ∧
    (∃ r0 r1 t, Completes .direq16 s .unit (readFrameTrace r0 r1) t ∧
        t.comb = sampledWord s.cfg (s.sensed.get b) ∧
        (∀ b', t.chips.lat.get b' = sampledWord s.cfg (s.sensed.get b')) ∧ t.chips.regs = s.chips.regs ∧
        t.chips.pend = s.chips.pend)

/-! ### The operation layer -/

/-- `SET_OUTPUT` (R164, R182) of a logical address 1..48 and a level that can be written: the selection of the bank's
output chip and one frame to register `0x20 + local + 3`; from idle lines that register of that chip holds the data
byte and every other byte is as before. The clauses on chip contents are the model's (log entry 11). -/
def Obligations.SetOutputWritesTheEnablePort : Prop :=
  ∀ (l : Level) (a : BitVec 8) (b : Bank) (k : Nat) (s : State), l ≠ .low → 1 ≤ k → k ≤ 8 →
    a.toNat = (bankOrdinal b - 1) * 8 + k → Quiet 7 s →
    ∃ r0 r1 t,
      Completes (.setOutput l a) s .unit
        (selectTrace (chipAddr .dout b) ++
          frameTrace (BitVec.ofNat 8 (0x20 + (k + 3))) (if l = .high then 0x01 else 0x00) r0 r1) t ∧
      t.buf0 = r0 ∧ t.buf1 = r1 ∧ t.comb = s.comb ∧ t.cfgtmp = s.cfgtmp ∧ Addresses t .dout b ∧
      t.lines.cs = true ∧ t.lines.load = s.lines.load ∧
      (ChipsFollowRules s → memWf s.chips.regs = true →
        memRead t.chips.regs (regAddr b (BitVec.ofNat 7 (0x20 + (k + 3)))) = (if l = .high then 0x01 else 0x00) ∧
        SameMemExcept (regAddr b (BitVec.ofNat 7 (0x20 + (k + 3)))) s t ∧ SameHidden s t)

/-- `GET_OUTPUT_SUPPLY` and `GET_OUTPUT_THERMAL` (R183, R184): one selection and the reads of ports 20 and 21, or 22
and 23, in that order; the answer is the decoding of the two levels read. From idle lines no byte of memory changes.
The clause on memory is the model's (log entry 11). -/
def Obligations.OutputDiagnosticsReadTwoPorts : Prop :=
  ∀ (i : Instr) (p : Byte) (v : Level → Level → Value) (b : Bank) (s : State),
    (i = .getOutputSupply b ∧ p = 20 ∧ (∀ l m, v l m = .supply (outSupplyState (outSupply s.cfg.outSupply l m))) ∨
      i = .getOutputThermal b ∧ p = 22 ∧ (∀ l m, v l m = .thermal (outThermal s.cfg.outThermal l m))) → Quiet 16 s →
    ∃ q a q' a' t,
      Completes i s
        (v (levelOfByte (respByte s.cfg a)) (levelOfByte (respByte s.cfg a')))
        (selectTrace (chipAddr .dout b) ++ regReadTrace (0x20 + p) q a ++ regReadTrace (0x20 + (p + 1)) q' a') t ∧
      Addresses t .dout b ∧ t.lines.cs = true ∧ t.lines.load = s.lines.load ∧ t.buf0 = a'.1 ∧ t.buf1 = a'.2 ∧
      t.comb = s.comb ∧ t.cfgtmp = s.cfgtmp ∧
      (ChipsFollowRules s → t.chips.regs = s.chips.regs ∧ t.chips.lat = s.chips.lat ∧
        ∀ b', b' ≠ b → t.chips.pend.get b' = s.chips.pend.get b')

/-- `GET_OUTPUT_STATE` (R185) of a logical address 1..48: one selection and the two supply reads; when the supply
decodes to `Unpowered` the answer is `IllegalOutput` and the state port is not read; otherwise it is read and its
level is the line state. From idle lines no byte of memory changes. The clause on memory is the model's (log entry
11). -/
def Obligations.OutputStateNeedsASupply : Prop :=
  ∀ (l : BitVec 8) (b : Bank) (k : Nat) (s : State), 1 ≤ k → k ≤ 8 → l.toNat = (bankOrdinal b - 1) * 8 + k →
    Quiet 22 s →
    ∃ q a q' a' t, exec (.getOutputState l) s = .next t ∧ Addresses t .dout b ∧ t.lines.cs = true ∧
      t.lines.load = s.lines.load ∧ t.comb = s.comb ∧ t.cfgtmp = s.cfgtmp ∧
      (ChipsFollowRules s → t.chips.regs = s.chips.regs ∧ t.chips.lat = s.chips.lat ∧
        ∀ b', b' ≠ b → t.chips.pend.get b' = s.chips.pend.get b') ∧
      (outSupply s.cfg.outSupply (levelOfByte (respByte s.cfg a)) (levelOfByte (respByte s.cfg a')) = .unpowered →
        t.rsp = some 0x2000 ∧ t.trace = s.trace ++
          (selectTrace (chipAddr .dout b) ++ regReadTrace 0x34 q a ++ regReadTrace 0x35 q' a')) ∧
      (outSupply s.cfg.outSupply (levelOfByte (respByte s.cfg a)) (levelOfByte (respByte s.cfg a')) ≠ .unpowered →
        ∃ q'' a'', t.rsp = some (rspWord (.ok (.line (if levelOfByte (respByte s.cfg a'') = .high then .normal else .openOrFault)))) ∧
          t.trace = s.trace ++
            (selectTrace (chipAddr .dout b) ++ regReadTrace 0x34 q a ++ regReadTrace 0x35 q' a' ++
              regReadTrace (BitVec.ofNat 8 (0x20 + (k + 11))) q'' a''))

/-- On the reference responder, with the bank's chip awake and its sense ports inputs, the three output queries complete
and answer what the pins carry (R63, R183, R184, R185): the thermal and supply decodings of the pins, and, of a bank
that is not unpowered, the line state of the state port's pin. -/
def Obligations.OutputQueriesAnswerThePins : Prop :=
  ∀ (b : Bank) (s : State), s.env = .reference → s.chips.awake b = true →
    (s.chips.portField b 20 ≠ 0b01 → s.chips.portField b 21 ≠ 0b01 → ∃ ev t,
      Completes (.getOutputSupply b) s (.supply (outSupplyState (outSupply s.cfg.outSupply
        (pinLevel ((s.pinIn.get b).getLsbD 20)) (pinLevel ((s.pinIn.get b).getLsbD 21))))) ev t ∧ SameMem s t) ∧
    (s.chips.portField b 22 ≠ 0b01 → s.chips.portField b 23 ≠ 0b01 → ∃ ev t,
      Completes (.getOutputThermal b) s (.thermal (outThermal s.cfg.outThermal
        (pinLevel ((s.pinIn.get b).getLsbD 22)) (pinLevel ((s.pinIn.get b).getLsbD 23)))) ev t ∧ SameMem s t) ∧
    (∀ (l : BitVec 8) (k : Nat), 1 ≤ k → k ≤ 8 → l.toNat = (bankOrdinal b - 1) * 8 + k →
      s.chips.portField b 20 ≠ 0b01 → s.chips.portField b 21 ≠ 0b01 → s.chips.portField b (k + 11) ≠ 0b01 →
      outSupply s.cfg.outSupply (pinLevel ((s.pinIn.get b).getLsbD 20)) (pinLevel ((s.pinIn.get b).getLsbD 21)) ≠ .unpowered →
      ∃ ev t, Completes (.getOutputState l) s
        (.line (if (s.pinIn.get b).getLsbD (k + 11) then .normal else .openOrFault)) ev t ∧ SameMem s t)

/-- `GET_INPUT`, `GET_INPUT_SUPPLY` and `GET_INPUT_THERMAL` (R186 to R188): one selection of the bank's input chip,
one load pulse, one frame; the answer decodes bit `k - 1`, 9 or 8 of the combined word when it passes the checks, and
is `DiParity` when it does not. From idle lines no byte of memory and no pending read value changes. The clause on
memory is the model's (log entry 11). -/
def Obligations.InputQueriesDecodeOneBit : Prop :=
  ∀ (i : Instr) (n : Nat) (v : Bool → Value) (b : Bank) (s : State),
    ((∃ (l : BitVec 8) (k : Nat), 1 ≤ k ∧ k ≤ 8 ∧ l.toNat = (bankOrdinal b - 1) * 8 + k ∧ i = .getInput l ∧ n = k - 1 ∧
        ∀ x, v x = .level (if x then .high else .low)) ∨
      (i = .getInputSupply b ∧ n = 9 ∧ ∀ x, v x = .supply (if x then .powered else .unpowered)) ∨
      (i = .getInputThermal b ∧ n = 8 ∧ ∀ x, v x = .thermal (if x then .normal else .hot))) → Quiet 9 s →
    ∃ r0 r1 t, exec i s = .next t ∧ t.trace = s.trace ++ (selectTrace (chipAddr .din b) ++ readFrameTrace r0 r1) ∧
      Addresses t .din b ∧ LinesIdle t ∧ t.buf0 = r0 ∧ t.buf1 = r1 ∧ t.comb = combined r0 r1 ∧ t.cfgtmp = s.cfgtmp ∧
      (wordAccepted s.cfg (combined r0 r1) = true → t.rsp = some (rspWord (.ok (v ((combined r0 r1).getLsbD n))))) ∧
      (wordAccepted s.cfg (combined r0 r1) = false → t.rsp = some 0x4000) ∧
      (ChipsFollowRules s → t.chips.regs = s.chips.regs ∧ t.chips.pend = s.chips.pend)

/-- On the reference responder the three input queries complete and answer what the bank's chip senses (R64, R186 to
R188). That the chip sends whatever header `DI_HEADER` says, where R64 writes the default 0x5000, is the model's (log
entry 20). -/
def Obligations.InputQueriesAnswerTheSensedData : Prop :=
  ∀ (b : Bank) (s : State), s.env = .reference → HeaderClean s.cfg →
    (∀ (l : BitVec 8) (k : Nat), 1 ≤ k → k ≤ 8 → l.toNat = (bankOrdinal b - 1) * 8 + k → ∃ ev t,
      Completes (.getInput l) s (.level (if (s.sensed.get b).getLsbD (k - 1) then .high else .low)) ev t ∧ SameMem s t) ∧
    (∃ ev t, Completes (.getInputSupply b) s (.supply (if (s.sensed.get b).getLsbD 9 then .powered else .unpowered)) ev t ∧
      SameMem s t) ∧
    (∃ ev t, Completes (.getInputThermal b) s (.thermal (if (s.sensed.get b).getLsbD 8 then .normal else .hot)) ev t ∧
      SameMem s t)

/-- `INIT` (R181): when the environment fails none of its 1266 drives and exchanges it answers `Ok`, and its events are
those of the six banks, ascending: for each one selection, its ports configured group by group, level before mode, each
configuration byte written back with its field replaced in the byte just read, and last the wake-up. They are 2514
events, 414 of them exchanges; `CS` ends high and the select lines at bank 6's output chip. -/
def Obligations.InitRunsAllSixBanks : Prop :=
  ∀ s : State, Quiet 1266 s →
    ∃ ev t, Completes .init s .unit ev t ∧ EachTrace (InitBankTrace s.cfg) [.b1, .b2, .b3, .b4, .b5, .b6] ev ∧
      ev.length = 2514 ∧ (ev.filter Event.isExchange).length = 414 ∧
      Addresses t .dout .b6 ∧ t.lines.cs = true ∧ t.lines.load = s.lines.load ∧ t.comb = s.comb

/-- On the reference responder `INIT` leaves every output chip configured and awake, whatever it held before (R181,
R245, P4): the configuration bytes, the eight enable ports at 0x00, the global register at 0x01 or 0x81; every other
register of every chip is as before. It rests on the configuration reads before the wake-up returning the stored bytes,
which R63 gives the reference chip and R245 leaves open for a real one (log entry 14). -/
def Obligations.InitConfiguresEveryBank : Prop :=
  ∀ s : State, s.env = .reference → memWf s.chips.regs = true →
    ∃ t, exec .init s = .next t ∧ t.rsp = some 0x0000 ∧ t.chips.lat = s.chips.lat ∧ ∀ b : Bank,
      t.chips.reg b 0x04 = (if s.cfg.initEnableIrq then 0x81 else 0x01) ∧
      t.chips.reg b 0x09 = 0x55 ∧ t.chips.reg b 0x0A = 0x55 ∧ t.chips.reg b 0x0B = 0xFF ∧
      t.chips.reg b 0x0C = 0xFF ∧ t.chips.reg b 0x0D = 0xFA ∧
      (∀ r : RegAddr, 0x24 ≤ r.toNat → r.toNat ≤ 0x2B → t.chips.reg b r = 0x00) ∧
      (∀ r : RegAddr, initWrites r = false → t.chips.reg b r = s.chips.reg b r)

/-! ### Errors -/

/-- R161: a logical address outside 1..48 is turned away before any interface action: no event, no latch, no register
and no chip changes, only the response. -/
def Obligations.LogicalOutsideRangeIsTurnedAway : Prop :=
  ∀ (l : BitVec 8) (s : State), (l.toNat < 1 ∨ 48 < l.toNat) →
    (∀ v, TurnedAway (.setOutput v l) s .illegalOutput) ∧ TurnedAway (.getOutputState l) s .illegalOutput ∧
      TurnedAway (.getInput l) s .illegalInput

/-- R114: a port number outside 4..31 is turned away with `IllegalOutput` by every operation that takes one, before any
interface action, whatever the level. -/
def Obligations.PortOutsideRangeIsTurnedAway : Prop :=
  ∀ (p : BitVec 8) (s : State), (p.toNat < 4 ∨ 31 < p.toNat) →
    (∀ v, TurnedAway (.peWritePort v p) s .illegalOutput) ∧ TurnedAway (.peReadPort p) s .illegalOutput ∧
      (∀ v, TurnedAway (.peCfgOutput v p) s .illegalOutput) ∧ (∀ u, TurnedAway (.peCfgInput u p) s .illegalOutput) ∧
      (∀ b, TurnedAway (.peCfgBits b p) s .illegalOutput)

/-- R203: `Low` has one effect, `UnsupportedLevel`: before any interface action in a port write or an output
configuration, after the selection in `SET_OUTPUT`; and nothing else answers `UnsupportedLevel`. -/
def Obligations.LowIsTheOneCauseOfUnsupportedLevel : Prop :=
  (∀ (p : BitVec 8) (s : State), 4 ≤ p.toNat → p.toNat ≤ 31 →
    TurnedAway (.peWritePort .low p) s .unsupportedLevel ∧ TurnedAway (.peCfgOutput .low p) s .unsupportedLevel) ∧
  (∀ (l : BitVec 8) (b : Bank) (k : Nat) (s : State), 1 ≤ k → k ≤ 8 → l.toNat = (bankOrdinal b - 1) * 8 + k → Quiet 4 s →
    ∃ t, exec (.setOutput .low l) s = .next t ∧ t.rsp = some 0x3000 ∧
      t.trace = s.trace ++ selectTrace (chipAddr .dout b) ∧ Addresses t .dout b ∧ t.lines.cs = s.lines.cs ∧
      t.lines.load = s.lines.load ∧ SameWorking s t ∧ (ChipsFollowRules s → t.chips = s.chips)) ∧
  (∀ (i : Instr) (s t : State), exec i s = .next t → t.rsp = some 0x3000 →
    ∃ x, i = .peWritePort .low x ∨ i = .peCfgOutput .low x ∨ i = .setOutput .low x)

/-- R204: `DiParity` is answered only by the instructions that read a serial-input frame (`DIREQ16` among them, log
entry 10), only after the complete frame sequence, and only for a word that fails the header check or the parity check;
the response carries no part of the word. -/
def Obligations.DiParityOnlyAfterAWholeFrame : Prop :=
  ∀ (i : Instr) (s t : State), exec i s = .next t → (∃ w, t.rsp = some w ∧ rspStatus w = 4) →
    t.rsp = some 0x4000 ∧
    (i = .direq16 ∨ (∃ k, i = .diReadBit k) ∨ (∃ l, i = .getInput l) ∨ (∃ b, i = .getInputSupply b) ∨
      (∃ b, i = .getInputThermal b)) ∧
    ∃ pre r0 r1, t.trace = s.trace ++ (pre ++ readFrameTrace r0 r1) ∧
      (headerOk s.cfg (combined r0 r1) = false ∨
        (headerOk s.cfg (combined r0 r1) = true ∧ parityOk s.cfg (combined r0 r1) = false))

/-- R201, with D12 for the bit index: `IllegalInput` is answered exactly by `GET_INPUT` of an address outside 1..48 and
`DI_READ_BIT` of an index above 9, with no interface action. -/
def Obligations.IllegalInputHasTwoCauses : Prop :=
  ∀ (i : Instr) (s : State),
    ((∃ l : BitVec 8, i = .getInput l ∧ (l.toNat < 1 ∨ 48 < l.toNat)) ∨ (∃ k : BitVec 8, i = .diReadBit k ∧ 9 < k.toNat) →
      TurnedAway i s .illegalInput) ∧
    (∀ t, exec i s = .next t → t.rsp = some 0x1000 →
      ((∃ l : BitVec 8, i = .getInput l ∧ (l.toNat < 1 ∨ 48 < l.toNat)) ∨ ∃ k : BitVec 8, i = .diReadBit k ∧ 9 < k.toNat) ∧
      t.trace = s.trace)

/-- R202: whatever the environment does, `IllegalOutput` is answered in these cases and in no other: a logical address
outside 1..48 of an output operation or a port number outside 4..31 of a port operation, which is turned away with no
interface action; and `GET_OUTPUT_STATE` of an address in range whose supply reads decode to `Unpowered`, which ends
after one select and four frames. -/
def Obligations.IllegalOutputHasNoOtherCause : Prop :=
  ∀ (i : Instr) (s : State), (RefusedOutput i → TurnedAway i s .illegalOutput) ∧
    ∀ t, exec i s = .next t → (t.rsp = some 0x2000 ↔ (RefusedOutput i ∧ t.trace = s.trace) ∨
    ∃ (l : BitVec 8) (b : Bank) (q a q' a' : Byte × Byte), i = .getOutputState l ∧ 1 ≤ l.toNat ∧ l.toNat ≤ 48 ∧
      bankOrdinal b = (l.toNat - 1) / 8 + 1 ∧
      outSupply s.cfg.outSupply (levelOfByte (respByte s.cfg a)) (levelOfByte (respByte s.cfg a')) = .unpowered ∧
      t.trace = s.trace ++ (selectTrace (chipAddr .dout b) ++ regReadTrace 0x34 q a ++ regReadTrace 0x35 q' a'))

/-- R206, R209: the trace of an instruction that answers `Transport(BusExchange)` ends at its one failed exchange, that
of one that answers `Transport(PinDrive)` ends at a drive; no other answer has a failed exchange in its trace. -/
def Obligations.TransportErrorsStopAtOnce : Prop :=
  ∀ (i : Instr) (s t : State), exec i s = .next t → ∃ ev, t.trace = s.trace ++ ev ∧
    (t.rsp = some 0x6000 → ∃ ev' t0 t1, ev = ev' ++ [.xferFail t0 t1] ∧ ∀ u v, Event.xferFail u v ∉ ev') ∧
    (t.rsp = some 0x7000 → ∃ ev' x b, ev = ev' ++ [.pin x b]) ∧
    (t.rsp ≠ some 0x6000 → ∀ u v, Event.xferFail u v ∉ ev)

/-- R205: no instruction, in any state and with any environment, answers `NotPresent`. -/
def Obligations.NotPresentIsNeverRaised : Prop :=
  ∀ (i : Instr) (s t : State), exec i s = .next t → t.rsp ≠ some (rspWord (.err .notPresent))

/-- R125, R209, R50 for the instructions of one frame, which stops at the action that fails. When `drive(CS, 0)` fails
nothing else happens and no chip changes. When the exchange fails `CS` is left low, the draws are in `BUF`, the answer
is `Transport(BusExchange)` and no register of a chip changes. When `drive(CS, 1)` fails the frame has reached the chip:
what a write frame wrote stays written. A configuration write that fails anywhere may have changed the one byte it named
(R121), no other. The clauses on chip contents are for a command that begins with idle lines; that a failed exchange of
a write other than E13's changes nothing, and what a failed drive does to the chips, is the model's (log entry 13). -/
def Obligations.FailedExchangeLeavesCsLow : Prop :=
  ∀ (i : Instr) (t0 t1 : Byte) (s : State) (c0 c bad : EnvChoice) (rest : List EnvChoice), OneFrame i t0 t1 →
    s.env = .oracle → s.cfg.pinDriveCanFail = true → c0.fails = false → bad.fails = true →
    (s.script = bad :: rest →
      ∃ t, exec i s = .next t ∧ t.rsp = some 0x7000 ∧ t.trace = s.trace ++ [.pin .cs false] ∧
        t.lines = { s.lines with cs := bad.b0.getLsbD 0 } ∧ SameWorking s t ∧ t.seq = .idle ∧
        (LinesIdle s → SameHidden s t ∧ ((∀ q v, i ≠ .fCfgWrite q v) → t.chips = s.chips) ∧
          (∀ b, Addresses s .dout b → SameMemExcept (regAddr b (regOf t0)) s t) ∧
          ((∀ b, ¬Addresses s .dout b) → t.chips = s.chips))) ∧
    (s.script = c0 :: bad :: rest →
      ∃ t, exec i s = .next t ∧ t.rsp = some 0x6000 ∧
        t.trace = s.trace ++ [.pin .cs false, .delay Config.settleUs, .xferFail t0 t1] ∧
        t.lines = { s.lines with cs := false } ∧ t.buf0 = bad.b0 ∧ t.buf1 = bad.b1 ∧ t.comb = s.comb ∧
        t.cfgtmp = s.cfgtmp ∧ t.seq = .idle ∧
        (LinesIdle s → t.chips.lat = s.chips.lat ∧ ((∀ q v, i ≠ .fCfgWrite q v) → t.chips.regs = s.chips.regs) ∧
          (t0.getLsbD 7 = false → t.chips.pend = s.chips.pend) ∧
          (∀ b, Addresses s .dout b → SameMemExcept (regAddr b (regOf t0)) s t ∧
            ∀ b', b' ≠ b → t.chips.pend.get b' = s.chips.pend.get b') ∧
          ((∀ b, ¬Addresses s .dout b) → t.chips = s.chips))) ∧
    (c.fails = false → s.script = c0 :: c :: bad :: rest →
      ∃ t, exec i s = .next t ∧ t.rsp = some 0x7000 ∧
        t.trace = s.trace ++ [.pin .cs false, .delay Config.settleUs, .xfer t0 t1 c.b0 c.b1, .delay Config.settleUs,
          .pin .cs true] ∧
        t.lines = { s.lines with cs := bad.b0.getLsbD 0 } ∧ t.buf0 = c.b0 ∧ t.buf1 = c.b1 ∧ t.comb = s.comb ∧
        t.cfgtmp = s.cfgtmp ∧ t.seq = .idle ∧
        (LinesIdle s → memWf s.chips.regs = true → t.chips.lat = s.chips.lat ∧
          (∀ b, Addresses s .dout b → SameMemExcept (regAddr b (regOf t0)) s t ∧
            (t0.getLsbD 7 = false → t0 ≠ 0x00 → (∀ q v, i ≠ .fCfgWrite q v) →
              memRead t.chips.regs (regAddr b (regOf t0)) = t1 ∧ t.chips.pend = s.chips.pend)) ∧
          ((∀ b, ¬Addresses s .dout b) → t.chips = s.chips)))

/-- R61: with the reference responder no instruction answers a `Transport` error. -/
def Obligations.ReferenceResponderNeverFails : Prop :=
  ∀ (i : Instr) (s t : State), s.env = .reference → exec i s = .next t →
    ∃ w, t.rsp = some w ∧ rspStatus w ≠ 6 ∧ rspStatus w ≠ 7

/-! ### Invariants and rules of the whole machine -/

/-- What reset leaves: the sequencer idle (R33) and every port expander in the low-power state (R231). The rest is the
model's choice: that nothing is presented, no response stands and the trace is empty (log entry 6), that the lines are
idle, R230's launch premise (log entry 2), that the memory reads as zero (log entry 4), and that a step with nothing
presented leaves the state as it is (log entry 9). -/
def Obligations.ResetIsIdleAndUnwoken : Prop :=
  State.reset.seq = .idle ∧ State.reset.port = none ∧ State.reset.rsp = none ∧ State.reset.trace = [] ∧
  (∀ b, State.reset.chips.awake b = false) ∧ LinesIdle State.reset ∧
  (∀ a, memRead State.reset.chips.regs a = unlistedByte) ∧ step State.reset = .next State.reset

/-- The invariant holds after reset. The canonical form of memory is the model's (log entries 4, 29). -/
def Obligations.ResetSatisfiesTheInvariant : Prop := Inv State.reset

/-- Every step keeps the invariant, from every state that has it: the canonical form of the memory, the idle sequencer
(R24, R211) and the form of the response (R85, R86, R205). The canonical form of memory is the model's (log entries 4,
29). -/
def Obligations.StepKeepsTheInvariant : Prop :=
  ∀ s t : State, Inv s → step s = .next t → Inv t

/-- R241: `lines_idle` is kept by every instruction that does not answer a `Transport` error, errors of every other kind
included. -/
def Obligations.LinesStayIdleWithoutTransportError : Prop :=
  ∀ (i : Instr) (s t : State), LinesIdle s → exec i s = .next t → t.rsp ≠ some 0x6000 → t.rsp ≠ some 0x7000 → LinesIdle t

/-- R34, R50: no instruction changes the parameters, the environment's kind, the external signals or the port, and none
takes back an event: the trace only grows. -/
def Obligations.InstructionsLeaveTheWorldAlone : Prop :=
  ∀ (i : Instr) (s t : State), exec i s = .next t → SameWorld s t ∧ ∃ ev, t.trace = s.trace ++ ev

/-- R72, R77: whatever the environment does, every frame a well-formed instruction sends is one of the frames of the
table. -/
def Obligations.OnlyTableFramesAreSent : Prop :=
  ∀ (i : Instr) (s t : State), i.wf = true → exec i s = .next t →
    ∃ ev, t.trace = s.trace ++ ev ∧ ∀ e ∈ ev,
      match e with
      | .pin _ _ => True
      | .delay us => us = 2
      | .xfer t0 t1 _ _ => ∃ j, decodeFrame (t0 ++ t1) = .ok j
      | .xferFail t0 t1 => ∃ j, decodeFrame (t0 ++ t1) = .ok j

/-- R47: from idle lines, whatever the environment does, the instructions that read or select change no byte of
memory, and those that read an input chip change no pending read value either (S10). What failed drives and exchanges
do to the chips is the model's (log entries 11, 13). -/
def Obligations.ReadsStoreNothing : Prop :=
  ∀ (i : Instr) (s t : State), StoresNothing i → ChipsFollowRules s → exec i s = .next t →
    t.chips.regs = s.chips.regs ∧
    ((∃ l, i = .getInput l) ∨ (∃ b, i = .getInputSupply b) ∨ (∃ b, i = .getInputThermal b) →
      t.chips.pend = s.chips.pend)

/-- Isolation of outputs (R180, R182): from idle lines, whatever the environment does, a `SET_OUTPUT` of a logical
address changes no byte but the enable register of that local port of that bank's chip. What failed drives and
exchanges do to the chips is the model's (log entries 11, 13). -/
def Obligations.SetOutputTouchesOneRegister : Prop :=
  ∀ (v : Level) (l : BitVec 8) (b : Bank) (k : Nat) (s t : State), 1 ≤ k → k ≤ 8 →
    l.toNat = (bankOrdinal b - 1) * 8 + k → ChipsFollowRules s → exec (.setOutput v l) s = .next t →
    SameMemExcept (regAddr b (BitVec.ofNat 7 (0x20 + (k + 3)))) s t

/-- Isolation of initialisation (R181): from idle lines, whatever the environment does and wherever it stops, `INIT`
changes no register but those it configures. What failed drives and exchanges do to the chips is the model's (log
entries 11, 13). -/
def Obligations.InitTouchesOnlyItsRegisters : Prop :=
  ∀ s t : State, ChipsFollowRules s → exec .init s = .next t →
    ∀ (b : Bank) (r : RegAddr), initWrites r = false → t.chips.reg b r = s.chips.reg b r

/-- R220: nothing returns a chip to the low-power state: from idle lines every well-formed instruction, whatever it
answers, leaves an awake port expander awake. What failed drives and exchanges do to the chips is the model's (log
entries 11, 13). -/
def Obligations.AwakeChipsStayAwake : Prop :=
  ∀ (i : Instr) (s t : State) (b : Bank), i.wf = true → ChipsFollowRules s → memWf s.chips.regs = true →
    exec i s = .next t → s.chips.awake b = true → t.chips.awake b = true

/-- R20, R22, R23: no instruction reads a working register or a response an earlier one left: from two states that
differ only in `BUF`, `COMB`, `CFGTMP` and the last response, every instruction gives the same response, trace,
latches, chips and environment. -/
def Obligations.WorkingRegistersCarryNothingOver : Prop :=
  ∀ (i : Instr) (s : State) (x y z : Byte) (c : Word) (r : Option Word), ∃ t t',
    exec i s = .next t ∧
    exec i { s with buf0 := x, buf1 := y, comb := c, cfgtmp := z, rsp := r } = .next t' ∧
    t' = { t with buf0 := t'.buf0, buf1 := t'.buf1, comb := t'.comb, cfgtmp := t'.cfgtmp }

/-- R105, R180: an operation-layer command never relies on an earlier selection: when none of its four select drives
fails, it does the same whatever address the select lines held. That the chips too come out equal with the oracle when
`CS` or `LOAD` is low, where R241 and R244 leave them undescribed and the earlier address could matter to them, is the
model's choice: their contents are then a free value of the number of the draw alone (log entry 12). -/
def Obligations.OperationLayerIgnoresEarlierSelection : Prop :=
  ∀ (i : Instr) (s : State) (a : ChipAddr), ReachesBus i → Quiet 4 s →
    exec i { s with lines := { s.lines with a0 := a.getLsbD 0, a1 := a.getLsbD 1, a2 := a.getLsbD 2, a3 := a.getLsbD 3 } } =
      exec i s
end

