-- ==== Sys2Proof/Laws/State.lean ====
section
/-! SUPPORT. One lemma per field per named update of State, true by rfl, so that no proof unfolds a record update. -/

namespace Sys2Proof.Machine

/-! ### `State.setLine` -/

@[simp] theorem setLine_cfg (s : State) (x : Line) (b : Bool) : (s.setLine x b).cfg = s.cfg := rfl
@[simp] theorem setLine_lines (s : State) (x : Line) (b : Bool) : (s.setLine x b).lines = s.lines.set x b := rfl
@[simp] theorem setLine_buf0 (s : State) (x : Line) (b : Bool) : (s.setLine x b).buf0 = s.buf0 := rfl
@[simp] theorem setLine_buf1 (s : State) (x : Line) (b : Bool) : (s.setLine x b).buf1 = s.buf1 := rfl
@[simp] theorem setLine_comb (s : State) (x : Line) (b : Bool) : (s.setLine x b).comb = s.comb := rfl
@[simp] theorem setLine_cfgtmp (s : State) (x : Line) (b : Bool) : (s.setLine x b).cfgtmp = s.cfgtmp := rfl
@[simp] theorem setLine_seq (s : State) (x : Line) (b : Bool) : (s.setLine x b).seq = s.seq := rfl
@[simp] theorem setLine_port (s : State) (x : Line) (b : Bool) : (s.setLine x b).port = s.port := rfl
@[simp] theorem setLine_rsp (s : State) (x : Line) (b : Bool) : (s.setLine x b).rsp = s.rsp := rfl
@[simp] theorem setLine_chips (s : State) (x : Line) (b : Bool) : (s.setLine x b).chips = s.chips := rfl
@[simp] theorem setLine_log (s : State) (x : Line) (b : Bool) : (s.setLine x b).log = s.log := rfl
@[simp] theorem setLine_env (s : State) (x : Line) (b : Bool) : (s.setLine x b).env = s.env := rfl
@[simp] theorem setLine_script (s : State) (x : Line) (b : Bool) : (s.setLine x b).script = s.script := rfl
@[simp] theorem setLine_draws (s : State) (x : Line) (b : Bool) : (s.setLine x b).draws = s.draws := rfl
@[simp] theorem setLine_pinIn (s : State) (x : Line) (b : Bool) : (s.setLine x b).pinIn = s.pinIn := rfl
@[simp] theorem setLine_sensed (s : State) (x : Line) (b : Bool) : (s.setLine x b).sensed = s.sensed := rfl

/-! ### `State.setChips` -/

@[simp] theorem setChips_cfg (s : State) (c : Chips) : (s.setChips c).cfg = s.cfg := rfl
@[simp] theorem setChips_lines (s : State) (c : Chips) : (s.setChips c).lines = s.lines := rfl
@[simp] theorem setChips_buf0 (s : State) (c : Chips) : (s.setChips c).buf0 = s.buf0 := rfl
@[simp] theorem setChips_buf1 (s : State) (c : Chips) : (s.setChips c).buf1 = s.buf1 := rfl
@[simp] theorem setChips_comb (s : State) (c : Chips) : (s.setChips c).comb = s.comb := rfl
@[simp] theorem setChips_cfgtmp (s : State) (c : Chips) : (s.setChips c).cfgtmp = s.cfgtmp := rfl
@[simp] theorem setChips_seq (s : State) (c : Chips) : (s.setChips c).seq = s.seq := rfl
@[simp] theorem setChips_port (s : State) (c : Chips) : (s.setChips c).port = s.port := rfl
@[simp] theorem setChips_rsp (s : State) (c : Chips) : (s.setChips c).rsp = s.rsp := rfl
@[simp] theorem setChips_chips (s : State) (c : Chips) : (s.setChips c).chips = c := rfl
@[simp] theorem setChips_log (s : State) (c : Chips) : (s.setChips c).log = s.log := rfl
@[simp] theorem setChips_env (s : State) (c : Chips) : (s.setChips c).env = s.env := rfl
@[simp] theorem setChips_script (s : State) (c : Chips) : (s.setChips c).script = s.script := rfl
@[simp] theorem setChips_draws (s : State) (c : Chips) : (s.setChips c).draws = s.draws := rfl
@[simp] theorem setChips_pinIn (s : State) (c : Chips) : (s.setChips c).pinIn = s.pinIn := rfl
@[simp] theorem setChips_sensed (s : State) (c : Chips) : (s.setChips c).sensed = s.sensed := rfl

/-! ### `State.drawn` -/

@[simp] theorem drawn_cfg (s : State) : s.drawn.cfg = s.cfg := rfl
@[simp] theorem drawn_lines (s : State) : s.drawn.lines = s.lines := rfl
@[simp] theorem drawn_buf0 (s : State) : s.drawn.buf0 = s.buf0 := rfl
@[simp] theorem drawn_buf1 (s : State) : s.drawn.buf1 = s.buf1 := rfl
@[simp] theorem drawn_comb (s : State) : s.drawn.comb = s.comb := rfl
@[simp] theorem drawn_cfgtmp (s : State) : s.drawn.cfgtmp = s.cfgtmp := rfl
@[simp] theorem drawn_seq (s : State) : s.drawn.seq = s.seq := rfl
@[simp] theorem drawn_port (s : State) : s.drawn.port = s.port := rfl
@[simp] theorem drawn_rsp (s : State) : s.drawn.rsp = s.rsp := rfl
@[simp] theorem drawn_chips (s : State) : s.drawn.chips = s.chips := rfl
@[simp] theorem drawn_log (s : State) : s.drawn.log = s.log := rfl
@[simp] theorem drawn_env (s : State) : s.drawn.env = s.env := rfl
@[simp] theorem drawn_script (s : State) : s.drawn.script = s.script := rfl
@[simp] theorem drawn_draws (s : State) : s.drawn.draws = s.draws + 1 := rfl
@[simp] theorem drawn_pinIn (s : State) : s.drawn.pinIn = s.pinIn := rfl
@[simp] theorem drawn_sensed (s : State) : s.drawn.sensed = s.sensed := rfl

/-! ### `State.emit` -/

@[simp] theorem emit_cfg (s : State) (e : Event) : (s.emit e).cfg = s.cfg := rfl
@[simp] theorem emit_lines (s : State) (e : Event) : (s.emit e).lines = s.lines := rfl
@[simp] theorem emit_buf0 (s : State) (e : Event) : (s.emit e).buf0 = s.buf0 := rfl
@[simp] theorem emit_buf1 (s : State) (e : Event) : (s.emit e).buf1 = s.buf1 := rfl
@[simp] theorem emit_comb (s : State) (e : Event) : (s.emit e).comb = s.comb := rfl
@[simp] theorem emit_cfgtmp (s : State) (e : Event) : (s.emit e).cfgtmp = s.cfgtmp := rfl
@[simp] theorem emit_seq (s : State) (e : Event) : (s.emit e).seq = s.seq.advance := rfl
@[simp] theorem emit_port (s : State) (e : Event) : (s.emit e).port = s.port := rfl
@[simp] theorem emit_rsp (s : State) (e : Event) : (s.emit e).rsp = s.rsp := rfl
@[simp] theorem emit_chips (s : State) (e : Event) : (s.emit e).chips = s.chips := rfl
@[simp] theorem emit_log (s : State) (e : Event) : (s.emit e).log = e :: s.log := rfl
@[simp] theorem emit_env (s : State) (e : Event) : (s.emit e).env = s.env := rfl
@[simp] theorem emit_script (s : State) (e : Event) : (s.emit e).script = s.script := rfl
@[simp] theorem emit_draws (s : State) (e : Event) : (s.emit e).draws = s.draws := rfl
@[simp] theorem emit_pinIn (s : State) (e : Event) : (s.emit e).pinIn = s.pinIn := rfl
@[simp] theorem emit_sensed (s : State) (e : Event) : (s.emit e).sensed = s.sensed := rfl

/-! ### `State.setBuf` -/

@[simp] theorem setBuf_cfg (s : State) (r0 r1 : Byte) : (s.setBuf r0 r1).cfg = s.cfg := rfl
@[simp] theorem setBuf_lines (s : State) (r0 r1 : Byte) : (s.setBuf r0 r1).lines = s.lines := rfl
@[simp] theorem setBuf_buf0 (s : State) (r0 r1 : Byte) : (s.setBuf r0 r1).buf0 = r0 := rfl
@[simp] theorem setBuf_buf1 (s : State) (r0 r1 : Byte) : (s.setBuf r0 r1).buf1 = r1 := rfl
@[simp] theorem setBuf_comb (s : State) (r0 r1 : Byte) : (s.setBuf r0 r1).comb = s.comb := rfl
@[simp] theorem setBuf_cfgtmp (s : State) (r0 r1 : Byte) : (s.setBuf r0 r1).cfgtmp = s.cfgtmp := rfl
@[simp] theorem setBuf_seq (s : State) (r0 r1 : Byte) : (s.setBuf r0 r1).seq = s.seq := rfl
@[simp] theorem setBuf_port (s : State) (r0 r1 : Byte) : (s.setBuf r0 r1).port = s.port := rfl
@[simp] theorem setBuf_rsp (s : State) (r0 r1 : Byte) : (s.setBuf r0 r1).rsp = s.rsp := rfl
@[simp] theorem setBuf_chips (s : State) (r0 r1 : Byte) : (s.setBuf r0 r1).chips = s.chips := rfl
@[simp] theorem setBuf_log (s : State) (r0 r1 : Byte) : (s.setBuf r0 r1).log = s.log := rfl
@[simp] theorem setBuf_env (s : State) (r0 r1 : Byte) : (s.setBuf r0 r1).env = s.env := rfl
@[simp] theorem setBuf_script (s : State) (r0 r1 : Byte) : (s.setBuf r0 r1).script = s.script := rfl
@[simp] theorem setBuf_draws (s : State) (r0 r1 : Byte) : (s.setBuf r0 r1).draws = s.draws := rfl
@[simp] theorem setBuf_pinIn (s : State) (r0 r1 : Byte) : (s.setBuf r0 r1).pinIn = s.pinIn := rfl
@[simp] theorem setBuf_sensed (s : State) (r0 r1 : Byte) : (s.setBuf r0 r1).sensed = s.sensed := rfl

/-! ### `State.setComb` -/

@[simp] theorem setComb_cfg (s : State) (c : Word) : (s.setComb c).cfg = s.cfg := rfl
@[simp] theorem setComb_lines (s : State) (c : Word) : (s.setComb c).lines = s.lines := rfl
@[simp] theorem setComb_buf0 (s : State) (c : Word) : (s.setComb c).buf0 = s.buf0 := rfl
@[simp] theorem setComb_buf1 (s : State) (c : Word) : (s.setComb c).buf1 = s.buf1 := rfl
@[simp] theorem setComb_comb (s : State) (c : Word) : (s.setComb c).comb = c := rfl
@[simp] theorem setComb_cfgtmp (s : State) (c : Word) : (s.setComb c).cfgtmp = s.cfgtmp := rfl
@[simp] theorem setComb_seq (s : State) (c : Word) : (s.setComb c).seq = s.seq := rfl
@[simp] theorem setComb_port (s : State) (c : Word) : (s.setComb c).port = s.port := rfl
@[simp] theorem setComb_rsp (s : State) (c : Word) : (s.setComb c).rsp = s.rsp := rfl
@[simp] theorem setComb_chips (s : State) (c : Word) : (s.setComb c).chips = s.chips := rfl
@[simp] theorem setComb_log (s : State) (c : Word) : (s.setComb c).log = s.log := rfl
@[simp] theorem setComb_env (s : State) (c : Word) : (s.setComb c).env = s.env := rfl
@[simp] theorem setComb_script (s : State) (c : Word) : (s.setComb c).script = s.script := rfl
@[simp] theorem setComb_draws (s : State) (c : Word) : (s.setComb c).draws = s.draws := rfl
@[simp] theorem setComb_pinIn (s : State) (c : Word) : (s.setComb c).pinIn = s.pinIn := rfl
@[simp] theorem setComb_sensed (s : State) (c : Word) : (s.setComb c).sensed = s.sensed := rfl

/-! ### `State.setCfgtmp` -/

@[simp] theorem setCfgtmp_cfg (s : State) (v : Byte) : (s.setCfgtmp v).cfg = s.cfg := rfl
@[simp] theorem setCfgtmp_lines (s : State) (v : Byte) : (s.setCfgtmp v).lines = s.lines := rfl
@[simp] theorem setCfgtmp_buf0 (s : State) (v : Byte) : (s.setCfgtmp v).buf0 = s.buf0 := rfl
@[simp] theorem setCfgtmp_buf1 (s : State) (v : Byte) : (s.setCfgtmp v).buf1 = s.buf1 := rfl
@[simp] theorem setCfgtmp_comb (s : State) (v : Byte) : (s.setCfgtmp v).comb = s.comb := rfl
@[simp] theorem setCfgtmp_cfgtmp (s : State) (v : Byte) : (s.setCfgtmp v).cfgtmp = v := rfl
@[simp] theorem setCfgtmp_seq (s : State) (v : Byte) : (s.setCfgtmp v).seq = s.seq := rfl
@[simp] theorem setCfgtmp_port (s : State) (v : Byte) : (s.setCfgtmp v).port = s.port := rfl
@[simp] theorem setCfgtmp_rsp (s : State) (v : Byte) : (s.setCfgtmp v).rsp = s.rsp := rfl
@[simp] theorem setCfgtmp_chips (s : State) (v : Byte) : (s.setCfgtmp v).chips = s.chips := rfl
@[simp] theorem setCfgtmp_log (s : State) (v : Byte) : (s.setCfgtmp v).log = s.log := rfl
@[simp] theorem setCfgtmp_env (s : State) (v : Byte) : (s.setCfgtmp v).env = s.env := rfl
@[simp] theorem setCfgtmp_script (s : State) (v : Byte) : (s.setCfgtmp v).script = s.script := rfl
@[simp] theorem setCfgtmp_draws (s : State) (v : Byte) : (s.setCfgtmp v).draws = s.draws := rfl
@[simp] theorem setCfgtmp_pinIn (s : State) (v : Byte) : (s.setCfgtmp v).pinIn = s.pinIn := rfl
@[simp] theorem setCfgtmp_sensed (s : State) (v : Byte) : (s.setCfgtmp v).sensed = s.sensed := rfl

/-! ### `State.begin` -/

@[simp] theorem begin_cfg (s : State) (i : Instr) : (s.begin i).cfg = s.cfg := rfl
@[simp] theorem begin_lines (s : State) (i : Instr) : (s.begin i).lines = s.lines := rfl
@[simp] theorem begin_buf0 (s : State) (i : Instr) : (s.begin i).buf0 = s.buf0 := rfl
@[simp] theorem begin_buf1 (s : State) (i : Instr) : (s.begin i).buf1 = s.buf1 := rfl
@[simp] theorem begin_comb (s : State) (i : Instr) : (s.begin i).comb = s.comb := rfl
@[simp] theorem begin_cfgtmp (s : State) (i : Instr) : (s.begin i).cfgtmp = s.cfgtmp := rfl
@[simp] theorem begin_seq (s : State) (i : Instr) : (s.begin i).seq = .running i 0 := rfl
@[simp] theorem begin_port (s : State) (i : Instr) : (s.begin i).port = s.port := rfl
@[simp] theorem begin_rsp (s : State) (i : Instr) : (s.begin i).rsp = s.rsp := rfl
@[simp] theorem begin_chips (s : State) (i : Instr) : (s.begin i).chips = s.chips := rfl
@[simp] theorem begin_log (s : State) (i : Instr) : (s.begin i).log = s.log := rfl
@[simp] theorem begin_env (s : State) (i : Instr) : (s.begin i).env = s.env := rfl
@[simp] theorem begin_script (s : State) (i : Instr) : (s.begin i).script = s.script := rfl
@[simp] theorem begin_draws (s : State) (i : Instr) : (s.begin i).draws = s.draws := rfl
@[simp] theorem begin_pinIn (s : State) (i : Instr) : (s.begin i).pinIn = s.pinIn := rfl
@[simp] theorem begin_sensed (s : State) (i : Instr) : (s.begin i).sensed = s.sensed := rfl

/-! ### `State.complete` -/

@[simp] theorem complete_cfg (s : State) (w : Word) : (s.complete w).cfg = s.cfg := rfl
@[simp] theorem complete_lines (s : State) (w : Word) : (s.complete w).lines = s.lines := rfl
@[simp] theorem complete_buf0 (s : State) (w : Word) : (s.complete w).buf0 = s.buf0 := rfl
@[simp] theorem complete_buf1 (s : State) (w : Word) : (s.complete w).buf1 = s.buf1 := rfl
@[simp] theorem complete_comb (s : State) (w : Word) : (s.complete w).comb = s.comb := rfl
@[simp] theorem complete_cfgtmp (s : State) (w : Word) : (s.complete w).cfgtmp = s.cfgtmp := rfl
@[simp] theorem complete_seq (s : State) (w : Word) : (s.complete w).seq = .idle := rfl
@[simp] theorem complete_port (s : State) (w : Word) : (s.complete w).port = s.port := rfl
@[simp] theorem complete_rsp (s : State) (w : Word) : (s.complete w).rsp = some w := rfl
@[simp] theorem complete_chips (s : State) (w : Word) : (s.complete w).chips = s.chips := rfl
@[simp] theorem complete_log (s : State) (w : Word) : (s.complete w).log = s.log := rfl
@[simp] theorem complete_env (s : State) (w : Word) : (s.complete w).env = s.env := rfl
@[simp] theorem complete_script (s : State) (w : Word) : (s.complete w).script = s.script := rfl
@[simp] theorem complete_draws (s : State) (w : Word) : (s.complete w).draws = s.draws := rfl
@[simp] theorem complete_pinIn (s : State) (w : Word) : (s.complete w).pinIn = s.pinIn := rfl
@[simp] theorem complete_sensed (s : State) (w : Word) : (s.complete w).sensed = s.sensed := rfl

/-! ### `State.accept` -/

@[simp] theorem accept_cfg (s : State) : s.accept.cfg = s.cfg := rfl
@[simp] theorem accept_lines (s : State) : s.accept.lines = s.lines := rfl
@[simp] theorem accept_buf0 (s : State) : s.accept.buf0 = s.buf0 := rfl
@[simp] theorem accept_buf1 (s : State) : s.accept.buf1 = s.buf1 := rfl
@[simp] theorem accept_comb (s : State) : s.accept.comb = s.comb := rfl
@[simp] theorem accept_cfgtmp (s : State) : s.accept.cfgtmp = s.cfgtmp := rfl
@[simp] theorem accept_seq (s : State) : s.accept.seq = s.seq := rfl
@[simp] theorem accept_port (s : State) : s.accept.port = none := rfl
@[simp] theorem accept_rsp (s : State) : s.accept.rsp = s.rsp := rfl
@[simp] theorem accept_chips (s : State) : s.accept.chips = s.chips := rfl
@[simp] theorem accept_log (s : State) : s.accept.log = s.log := rfl
@[simp] theorem accept_env (s : State) : s.accept.env = s.env := rfl
@[simp] theorem accept_script (s : State) : s.accept.script = s.script := rfl
@[simp] theorem accept_draws (s : State) : s.accept.draws = s.draws := rfl
@[simp] theorem accept_pinIn (s : State) : s.accept.pinIn = s.pinIn := rfl
@[simp] theorem accept_sensed (s : State) : s.accept.sensed = s.sensed := rfl

/-! ### The chips' registers and the latches -/

@[simp] theorem setPend_regs (c : Chips) (b : Bank) (v : Byte) : (c.setPend b v).regs = c.regs := rfl
@[simp] theorem setPend_lat (c : Chips) (b : Bank) (v : Byte) : (c.setPend b v).lat = c.lat := rfl
@[simp] theorem setPend_pend (c : Chips) (b : Bank) (v : Byte) : (c.setPend b v).pend = c.pend.set b v := rfl
@[simp] theorem setReg_regs (c : Chips) (b : Bank) (r : RegAddr) (v : Byte) :
    (c.setReg b r v).regs = memWrite c.regs (regAddr b r) v := rfl
@[simp] theorem setReg_pend (c : Chips) (b : Bank) (r : RegAddr) (v : Byte) : (c.setReg b r v).pend = c.pend := rfl
@[simp] theorem setReg_lat (c : Chips) (b : Bank) (r : RegAddr) (v : Byte) : (c.setReg b r v).lat = c.lat := rfl

/-- A latch reads as it was last set (R21). -/
@[simp] theorem lines_get_set_same (l : Lines) (x : Line) (b : Bool) : (l.set x b).get x = b := by cases x <;> rfl

/-- Setting a latch leaves every other latch alone (R21). -/
theorem lines_get_set_other (l : Lines) (x y : Line) (b : Bool) (h : y ≠ x) : (l.set x b).get y = l.get y := by
  cases x <;> cases y <;> first | rfl | exact absurd rfl h

/-- Select lines that hold an address read as that address (R25, R70). -/
@[simp] theorem address_withAddress (l : Lines) (a : ChipAddr) : (l.withAddress a).address = a := by
  simp only [Lines.address, Lines.withAddress]
  revert a
  decide

/-- The chip at `chip_addr(d, b)` is the chip of direction `d` and bank `b` (R25, R101). -/
@[simp] theorem chipAt_chipAddr (d : Direction) (b : Bank) : chipAt (chipAddr d b) = some (d, b) := by
  cases d <;> cases b <;> rfl

/-- A six-fold register reads as it was last set. -/
@[simp] theorem six_get_set_same {α : Type} (s : Six α) (b : Bank) (a : α) : (s.set b a).get b = a := by
  cases b <;> rfl

/-- Setting one bank's register leaves the others alone. -/
theorem six_get_set_other {α : Type} (s : Six α) (b c : Bank) (a : α) (h : c ≠ b) : (s.set b a).get c = s.get c := by
  cases b <;> cases c <;> first | rfl | exact absurd rfl h

/-- A tabulated register reads as the function. -/
@[simp] theorem six_get_tabulate {α : Type} (f : Bank → α) (b : Bank) : (Six.tabulate f).get b = f b := by
  cases b <;> rfl

end Sys2Proof.Machine
end

