-- ==== Sys2Proof/Laws/Memory.lean ====
section
/-! SUPPORT. The laws of the memory of chip registers: what a read gives after a write, and that every memory operation
keeps the canonical form. -/

namespace Sys2Proof.Machine

/-! ### Addresses -/

/-- The memory is the addresses 1024 to 1791 (R40, R62). -/
theorem memBase_memSize : memBase = 1024 ∧ memSize = 768 := ⟨rfl, rfl⟩

/-- The named constants of R5 agree with the types they bound: six banks, 48 logical addresses, four select lines. -/
theorem config_counts : allBanks.length = Config.nBanks ∧ Config.nLogical = Config.nBanks * Config.nLocal ∧
    (selectTrace 0).length = Config.nSel + 1 ∧ ∀ a : ChipAddr, a.toNat < 2 ^ Config.nSel :=
  ⟨rfl, rfl, rfl, fun a => a.isLt⟩

/-- A register's address lies in the memory. -/
theorem regAddr_range (b : Bank) (r : RegAddr) : memBase ≤ regAddr b r ∧ regAddr b r < memBase + memSize := by
  have h := r.isLt
  cases b <;> simp [regAddr, chipAddr, bankOrdinal, memBase, memSize, Config.outAddr, Config.nBanks, Config.nRegs] <;> omega

/-- Different registers, or registers of different chips, have different addresses. -/
theorem regAddr_inj {b c : Bank} {r q : RegAddr} (h : regAddr b r = regAddr c q) : b = c ∧ r = q := by
  have hr := r.isLt
  have hq := q.isLt
  have hb : b = c := by
    cases b <;> cases c <;> first | rfl | (simp [regAddr, chipAddr, bankOrdinal, Config.outAddr, Config.nRegs] at h; omega)
  subst hb
  refine ⟨rfl, BitVec.eq_of_toNat_eq ?_⟩
  simp only [regAddr, Config.nRegs] at h
  omega

/-! ### The canonical form -/

/-- A listing that starts at an address starts at every lower one. -/
theorem memSorted_mono {lo hi : Nat} (h : lo ≤ hi) : ∀ {m : List Host.Cell}, memSorted hi m = true → memSorted lo m = true
  | [], _ => rfl
  | (a, v) :: m, hm => by
    simp only [memSorted, Bool.and_eq_true, decide_eq_true_eq] at hm ⊢
    exact ⟨⟨⟨le_trans h hm.1.1.1, hm.1.1.2⟩, hm.1.2⟩, hm.2⟩

/-- A cell put before a listing. -/
theorem memSorted_memCell {lo x : Nat} {v : Byte} {m : List Host.Cell} (hlo : lo ≤ x) (hx : x < memBase + memSize)
    (hm : memSorted (x + 1) m = true) : memSorted lo (memCell x v m) = true := by
  unfold memCell
  split
  · exact memSorted_mono (by omega) hm
  · rename_i hv
    simp [memSorted, hlo, hx, hm, hv]

/-- A write keeps the listing sorted and canonical. -/
theorem memSorted_memWrite {x : Nat} {v : Byte} (hx : x < memBase + memSize) :
    ∀ {lo : Nat} {m : List Host.Cell}, lo ≤ x → memSorted lo m = true → memSorted lo (memWrite m x v) = true
  | lo, [], hlo, _ => memSorted_memCell hlo hx rfl
  | lo, (a, w) :: m, hlo, hm => by
    simp only [memSorted, Bool.and_eq_true, decide_eq_true_eq] at hm
    unfold memWrite
    split
    · rename_i hlt
      refine memSorted_memCell hlo hx ?_
      simp only [memSorted, Bool.and_eq_true, decide_eq_true_eq]
      exact ⟨⟨⟨by omega, hm.1.1.2⟩, hm.1.2⟩, hm.2⟩
    · split
      · rename_i heq
        exact memSorted_memCell hlo hx (heq ▸ hm.2)
      · simp only [memSorted, Bool.and_eq_true, decide_eq_true_eq]
        exact ⟨⟨⟨hm.1.1.1, hm.1.1.2⟩, hm.1.2⟩, memSorted_memWrite hx (by omega) hm.2⟩

/-- Writing a byte of the memory keeps the canonical form. -/
theorem memWf_memWrite {m : List Host.Cell} {x : Nat} (v : Byte) (hlo : memBase ≤ x) (hhi : x < memBase + memSize)
    (h : memWf m = true) : memWf (memWrite m x v) = true := memSorted_memWrite hhi hlo h

/-- The memory that any list of pairs describes is canonical. -/
theorem memWf_memOf : ∀ l : List Host.Cell, memWf (memOf l) = true
  | [] => rfl
  | (a, v) :: l => by
    unfold memOf
    split
    · rename_i h
      exact memWf_memWrite v h.1 h.2 (memWf_memOf l)
    · exact memWf_memOf l

/-- Writing a register keeps the canonical form. -/
theorem memWf_setReg {c : Chips} (b : Bank) (r : RegAddr) (v : Byte) (h : memWf c.regs = true) :
    memWf (c.setReg b r v).regs = true :=
  memWf_memWrite v (regAddr_range b r).1 (regAddr_range b r).2 h

/-- Chips of free values are canonical. -/
theorem memWf_free (n : Nat) : memWf (Chips.free n).regs = true := memWf_memOf _

/-- The memory after reset is canonical. -/
theorem memWf_reset : memWf State.reset.chips.regs = true := rfl

/-! ### Reading after writing -/

/-- A read before every listed address gives the unlisted byte. -/
theorem memRead_of_lt {x : Nat} : ∀ {lo : Nat} {m : List Host.Cell}, x < lo → memSorted lo m = true → memRead m x = unlistedByte
  | _, [], _, _ => rfl
  | lo, (a, v) :: m, h, hm => by
    simp only [memSorted, Bool.and_eq_true, decide_eq_true_eq] at hm
    rw [memRead, if_neg (by omega)]
    exact memRead_of_lt (by omega : x < a + 1) hm.2

/-- What a listing headed by a cell reads as. -/
theorem memRead_memCell {x y : Nat} {v : Byte} {m : List Host.Cell} (hm : memSorted (x + 1) m = true) :
    memRead (memCell x v m) y = if y = x then v else memRead m y := by
  unfold memCell
  by_cases hv : v = unlistedByte
  · rw [if_pos hv]
    by_cases hy : y = x
    · rw [if_pos hy, hv]
      exact memRead_of_lt (by omega : y < x + 1) hm
    · rw [if_neg hy]
  · rw [if_neg hv, memRead]
    by_cases hy : y = x
    · rw [if_pos hy, if_pos hy.symm]
    · rw [if_neg hy, if_neg (Ne.symm hy)]

/-- A canonical memory reads as it was last written: the written byte at the address, every other byte as before. -/
theorem memRead_memWrite_sorted {x y : Nat} {v : Byte} :
    ∀ {lo : Nat} {m : List Host.Cell}, memSorted lo m = true →
      memRead (memWrite m x v) y = if y = x then v else memRead m y
  | _, [], _ => memRead_memCell rfl
  | lo, (a, w) :: m, hm => by
    simp only [memSorted, Bool.and_eq_true, decide_eq_true_eq] at hm
    have hcons : memSorted a ((a, w) :: m) = true := by
      simp only [memSorted, Bool.and_eq_true, decide_eq_true_eq]
      exact ⟨⟨⟨le_refl a, hm.1.1.2⟩, hm.1.2⟩, hm.2⟩
    unfold memWrite
    split
    · exact memRead_memCell (memSorted_mono (by omega) hcons)
    · split
      · rename_i heq
        subst heq
        rw [memRead_memCell hm.2]
        by_cases hy : y = x
        · rw [if_pos hy, if_pos hy]
        · rw [if_neg hy, if_neg hy, memRead, if_neg (Ne.symm hy)]
      · rename_i hne
        rw [memRead, memRead_memWrite_sorted hm.2, memRead]
        by_cases hy : y = x
        · rw [if_pos hy, if_pos hy, if_neg (by omega)]
        · rw [if_neg hy, if_neg hy]

/-- The same, for memory in the canonical form. -/
theorem memRead_memWrite {m : List Host.Cell} (x y : Nat) (v : Byte) (h : memWf m = true) :
    memRead (memWrite m x v) y = if y = x then v else memRead m y := memRead_memWrite_sorted h

/-- A byte outside the written address reads as before, canonical form or not. -/
theorem memRead_memWrite_other {x y : Nat} {v : Byte} (hy : y ≠ x) :
    ∀ m : List Host.Cell, memRead (memWrite m x v) y = memRead m y
  | [] => by
    simp only [memWrite, memCell]
    split
    · rfl
    · simp [memRead, Ne.symm hy]
  | (a, w) :: m => by
    have hcell : ∀ l : List Host.Cell, memRead (memCell x v l) y = memRead l y := by
      intro l
      unfold memCell
      split
      · rfl
      · rw [memRead, if_neg (Ne.symm hy)]
    unfold memWrite
    split
    · exact hcell _
    · split
      · rename_i heq
        rw [hcell, memRead, if_neg (by omega)]
      · rw [memRead, memRead, memRead_memWrite_other hy m]

/-- A register just written reads as the byte written, in a canonical memory. -/
theorem reg_setReg_same {c : Chips} (b : Bank) (r : RegAddr) (v : Byte) (h : memWf c.regs = true) :
    (c.setReg b r v).reg b r = v := by
  simp [Chips.reg, memRead_memWrite _ _ _ h]

/-- Every other register reads as before. -/
theorem reg_setReg_other (c : Chips) (b b' : Bank) (r r' : RegAddr) (v : Byte) (h : ¬(b' = b ∧ r' = r)) :
    (c.setReg b r v).reg b' r' = c.reg b' r' := by
  simp only [Chips.reg, setReg_regs]
  exact memRead_memWrite_other (fun e => h (regAddr_inj e)) _

@[simp] theorem reg_setPend (c : Chips) (b b' : Bank) (r : RegAddr) (v : Byte) : (c.setPend b v).reg b' r = c.reg b' r := rfl

end Sys2Proof.Machine
end

