-- ==== Sys2Proof/Laws/Ops.lean ====
section
/-! SUPPORT. One lemma per shared operation that says once what it can do: how operations sequence, what a drive, an
exchange and a frame leave, and how each runs when the environment does not fail. Later proofs cite these. -/

namespace Sys2Proof.Machine

/-! ### Sequencing (R11) -/

theorem andThen_ok {α β : Type} {m : Op α} {k : α → Op β} {s t : State} {a : α} (h : m s = (.ok a, t)) :
    andThen m k s = k a t := by simp [andThen, h]

theorem andThen_err {α β : Type} {m : Op α} {k : α → Op β} {s t : State} {e : ErrKind} (h : m s = (.err e, t)) :
    andThen m k s = (.err e, t) := by simp [andThen, h]

/-- The two ways a sequence runs: the first part succeeds and the rest runs, or its error ends the sequence. -/
theorem andThen_cases {α β : Type} (m : Op α) (k : α → Op β) (s : State) :
    (∃ a t, m s = (.ok a, t) ∧ andThen m k s = k a t) ∨ (∃ e t, m s = (.err e, t) ∧ andThen m k s = (.err e, t)) := by
  rcases h : m s with ⟨a | e, t⟩
  · exact .inl ⟨a, t, rfl, andThen_ok h⟩
  · exact .inr ⟨e, t, rfl, andThen_err h⟩

/-- Sequencing is associative: an operation within an operation appends its events to the same trace (R180). -/
theorem andThen_assoc {α β γ : Type} (m : Op α) (k : α → Op β) (l : β → Op γ) :
    andThen (andThen m k) l = andThen m fun a => andThen (k a) l := by
  funext s
  rcases h : m s with ⟨a | e, t⟩ <;> simp [andThen, h]

@[simp] theorem andThen_ret {α β : Type} (a : α) (k : α → Op β) : andThen (ret a) k = k a := rfl
@[simp] theorem andThen_raise {α β : Type} (e : ErrKind) (k : α → Op β) : andThen (raise e) k = raise e := rfl
@[simp] theorem require_true (e : ErrKind) : require true e = ret () := rfl
@[simp] theorem require_false (e : ErrKind) : require false e = raise e := rfl
theorem andThen_settle {α : Type} (k : Unit → Op α) (s : State) :
    andThen settle k s = k () (s.emit (.delay Config.settleUs)) := rfl
theorem andThen_readCfg {α : Type} (k : Params → Op α) (s : State) : andThen readCfg k s = k s.cfg s := rfl
theorem andThen_writeComb {α : Type} (c : Word) (k : Unit → Op α) (s : State) :
    andThen (writeComb c) k s = k () (s.setComb c) := rfl
theorem andThen_writeCfgtmp {α : Type} (v : Byte) (k : Unit → Op α) (s : State) :
    andThen (writeCfgtmp v) k s = k () (s.setCfgtmp v) := rfl
@[simp] theorem forEach_nil {α : Type} (f : α → Op Unit) : forEach [] f = ret () := rfl
@[simp] theorem forEach_cons {α : Type} (x : α) (xs : List α) (f : α → Op Unit) :
    forEach (x :: xs) f = andThen (f x) fun _ => forEach xs f := rfl

theorem onError_ok {α : Type} {m : Op α} {f : State → State} {s t : State} {a : α} (h : m s = (.ok a, t)) :
    onError m f s = (.ok a, t) := by simp [onError, h]

theorem onError_err {α : Type} {m : Op α} {f : State → State} {s t : State} {e : ErrKind} (h : m s = (.err e, t)) :
    onError m f s = (.err e, f t) := by simp [onError, h]

/-! ### Pre- and postconditions -/

/-- From a state with `P`, a success with value `a` leaves `Q a` and an error `e` leaves `E e`. -/
def Triple {α : Type} (P : State → Prop) (m : Op α) (Q : α → State → Prop) (E : ErrKind → State → Prop) : Prop :=
  ∀ s, P s → match m s with
    | (.ok a, t) => Q a t
    | (.err e, t) => E e t

theorem triple_ret {α : Type} {P : State → Prop} {Q : α → State → Prop} {E : ErrKind → State → Prop} {a : α}
    (h : ∀ s, P s → Q a s) : Triple P (ret a) Q E := fun s hs => h s hs

theorem triple_raise {α : Type} {P : State → Prop} {Q : α → State → Prop} {E : ErrKind → State → Prop} {e : ErrKind}
    (h : ∀ s, P s → E e s) : Triple P (raise e) Q E := fun s hs => h s hs

theorem triple_andThen {α β : Type} {P : State → Prop} {m : Op α} {R : α → State → Prop} {k : α → Op β}
    {Q : β → State → Prop} {E : ErrKind → State → Prop} (hm : Triple P m R E) (hk : ∀ a, Triple (R a) (k a) Q E) :
    Triple P (andThen m k) Q E := by
  intro s hs
  have h := hm s hs
  rcases hms : m s with ⟨a | e, t⟩ <;> rw [hms] at h <;> simp only [andThen, hms]
  · exact hk a t h
  · exact h

theorem triple_weaken {α : Type} {P P' : State → Prop} {m : Op α} {Q Q' : α → State → Prop}
    {E E' : ErrKind → State → Prop} (h : Triple P m Q E) (hP : ∀ s, P' s → P s) (hQ : ∀ a s, Q a s → Q' a s)
    (hE : ∀ e s, E e s → E' e s) : Triple P' m Q' E' := by
  intro s hs
  have := h s (hP s hs)
  rcases hms : m s with ⟨a | e, t⟩ <;> rw [hms] at this
  · exact hQ a t this
  · exact hE e t this

theorem triple_onError {α : Type} {P : State → Prop} {m : Op α} {f : State → State} {Q : α → State → Prop}
    {E E' : ErrKind → State → Prop} (hm : Triple P m Q E) (hf : ∀ e s, E e s → E' e (f s)) :
    Triple P (onError m f) Q E' := by
  intro s hs
  have h := hm s hs
  rcases hms : m s with ⟨a | e, t⟩ <;> rw [hms] at h <;> simp only [onError, hms]
  · exact h
  · exact hf e t h

theorem triple_require {P : State → Prop} {ok : Bool} {e : ErrKind} {Q : Unit → State → Prop}
    {E : ErrKind → State → Prop} (hok : ok = true → ∀ s, P s → Q () s) (herr : ok = false → ∀ s, P s → E e s) :
    Triple P (require ok e) Q E := by
  cases ok
  · exact triple_raise (herr rfl)
  · exact triple_ret (hok rfl)

/-- A loop whose body keeps `P` keeps `P`. -/
theorem triple_forEach {α : Type} {P : State → Prop} {f : α → Op Unit} {E : ErrKind → State → Prop} :
    ∀ xs : List α, (∀ x ∈ xs, Triple P (f x) (fun _ => P) E) → Triple P (forEach xs f) (fun _ => P) E
  | [], _ => triple_ret fun _ h => h
  | x :: xs, h => triple_andThen (h x (by simp)) fun _ => triple_forEach xs fun y hy => h y (by simp [hy])

/-! ### What the environment and the chips leave alone -/

/-- Everything but the environment's bookkeeping (the script and the count of draws). -/
abbrev SameBlock (s t : State) : Prop :=
  t.cfg = s.cfg ∧ t.lines = s.lines ∧ t.buf0 = s.buf0 ∧ t.buf1 = s.buf1 ∧ t.comb = s.comb ∧ t.cfgtmp = s.cfgtmp ∧
    t.seq = s.seq ∧ t.port = s.port ∧ t.rsp = s.rsp ∧ t.log = s.log ∧ t.env = s.env ∧ t.pinIn = s.pinIn ∧
    t.sensed = s.sensed

/-- Asking the oracle changes only the environment's bookkeeping. -/
theorem consult_same (act : EnvAction) (s : State) : SameBlock s (consult act s).2 ∧ (consult act s).2.chips = s.chips := by
  unfold consult
  split <;> simp [SameBlock]

theorem driveChoice_same (x : Line) (b : Bool) (s : State) :
    SameBlock s (driveChoice x b s).2 ∧ (driveChoice x b s).2.chips = s.chips := by
  unfold driveChoice
  split
  · exact consult_same _ s
  · simp [SameBlock]

theorem xferChoice_same (t0 t1 : Byte) (s : State) :
    SameBlock s (xferChoice t0 t1 s).2 ∧ (xferChoice t0 t1 s).2.chips = s.chips := by
  unfold xferChoice
  split
  · exact consult_same _ s
  · simp [SameBlock]

theorem disturbChips_same (s : State) : SameBlock s (disturbChips s) ∧ (disturbChips s).script = s.script := by
  simp [SameBlock, disturbChips]

theorem disturbLatches_same (s : State) : SameBlock s (disturbLatches s) ∧ (disturbLatches s).script = s.script := by
  simp [SameBlock, disturbLatches]

theorem sampleInputs_same (s : State) : SameBlock s (sampleInputs s) ∧ (sampleInputs s).script = s.script := by
  simp [SameBlock, sampleInputs]

/-- The chips' answer to a drive touches no part of the block and consumes no choice. -/
theorem chipsSeeDrive_same (x : Line) (b : Bool) (s : State) :
    SameBlock s (chipsSeeDrive x b s) ∧ (chipsSeeDrive x b s).script = s.script := by
  cases x <;> cases b <;> simp [chipsSeeDrive, sampleInputs, SameBlock]

theorem chipsSeeFailedDrive_same (x : Line) (s : State) :
    SameBlock s (chipsSeeFailedDrive x s) ∧ (chipsSeeFailedDrive x s).script = s.script := by
  cases x <;> simp [chipsSeeFailedDrive, disturbLatches, SameBlock]

theorem captureRead_same (b : Bank) (r : RegAddr) (s : State) :
    SameBlock s (captureRead b r s) ∧ (captureRead b r s).script = s.script := by
  unfold captureRead
  split <;> simp [SameBlock]

theorem expanderTakes_same (b : Bank) (t0 t1 : Byte) (s : State) :
    SameBlock s (expanderTakes b t0 t1 s) ∧ (expanderTakes b t0 t1 s).script = s.script := by
  unfold expanderTakes
  repeat' split
  · exact captureRead_same b _ s
  · simp [SameBlock]
  · simp [SameBlock]

theorem expanderMisses_same (b : Bank) (t0 : Byte) (s : State) :
    SameBlock s (expanderMisses b t0 s) ∧ (expanderMisses b t0 s).script = s.script := by
  unfold expanderMisses
  split <;> simp [SameBlock]

/-- The chips' answer to an exchange touches no part of the block and consumes no choice. -/
theorem chipsTake_same (t0 t1 : Byte) (s : State) :
    SameBlock s (chipsTake t0 t1 s) ∧ (chipsTake t0 t1 s).script = s.script := by
  unfold chipsTake
  split
  · exact expanderTakes_same _ t0 t1 s
  · simp [SameBlock]
  · simp [SameBlock]

theorem chipsMiss_same (t0 : Byte) (s : State) :
    SameBlock s (chipsMiss t0 s) ∧ (chipsMiss t0 s).script = s.script := by
  unfold chipsMiss
  split
  · exact expanderMisses_same _ t0 s
  · simp [SameBlock]
  · simp [SameBlock]

theorem loseRegister_same (r : Byte) (s : State) :
    SameBlock s (loseRegister r s) ∧ (loseRegister r s).script = s.script := by
  unfold loseRegister
  split <;> simp [SameBlock]

/-- A failed exchange changes no register of a port expander and no frame register of a serial-input chip. -/
theorem chipsMiss_keeps (t0 : Byte) (s : State) :
    (chipsMiss t0 s).chips.regs = s.chips.regs ∧ (chipsMiss t0 s).chips.lat = s.chips.lat := by
  unfold chipsMiss expanderMisses
  repeat' split
  all_goals simp

/-- Settling the chips after a command touches no part of the block (R244). -/
theorem settleChips_same (s t : State) : SameBlock t (settleChips s t) ∧ (settleChips s t).script = t.script := by
  unfold settleChips
  split
  · exact disturbChips_same t
  · simp [SameBlock]

/-- A command that began with idle lines, that the reference responder answered, or that performed no interface
action, leaves the chips as its operation left them (R61, R230, R244). -/
theorem settleChips_still {s t : State} (h : ChipsFollowRules s ∨ t.seq.acted = false) : settleChips s t = t := by
  apply if_neg
  rintro ⟨he, hl, ha⟩
  rcases h with (hr | hi) | hn
  · rw [he] at hr
    cases hr
  · simp [Lines.idle, hi] at hl
  · rw [hn] at ha
    cases ha

/-- What running a command gives: the operation's result is the response, the sequencer is idle, the rest is as the
operation left it but for the chips, which `settleChips` decides (R24, R209, R244). -/
theorem runCommand_eq {i : Instr} {m : Op Value} {s u : State} {r : Res Value} (h : m (s.begin i) = (r, u)) :
    runCommand i m s = .next ((settleChips s u).complete (rspWord r)) := by simp [runCommand, h]

/-! ### The canonical form of the memory is kept -/

theorem chipsSeeDrive_wf (x : Line) (b : Bool) (s : State) (h : memWf s.chips.regs = true) :
    memWf (chipsSeeDrive x b s).chips.regs = true := by
  cases x <;> cases b <;> simpa [chipsSeeDrive, sampleInputs] using h

theorem chipsSeeFailedDrive_wf (x : Line) (s : State) (h : memWf s.chips.regs = true) :
    memWf (chipsSeeFailedDrive x s).chips.regs = true := by
  cases x <;> simpa [chipsSeeFailedDrive, disturbLatches] using h

theorem chipsTake_wf (t0 t1 : Byte) (s : State) (h : memWf s.chips.regs = true) :
    memWf (chipsTake t0 t1 s).chips.regs = true := by
  unfold chipsTake expanderTakes captureRead
  repeat' split
  all_goals first
    | exact h
    | simpa using memWf_setReg _ _ _ h

theorem chipsMiss_wf (t0 : Byte) (s : State) (h : memWf s.chips.regs = true) :
    memWf (chipsMiss t0 s).chips.regs = true := by
  rw [(chipsMiss_keeps t0 s).1]
  exact h

theorem loseRegister_wf (r : Byte) (s : State) (h : memWf s.chips.regs = true) :
    memWf (loseRegister r s).chips.regs = true := by
  unfold loseRegister
  split
  · simpa using memWf_setReg _ _ _ h
  · exact h
  · exact h

theorem settleChips_wf (s t : State) (h : memWf t.chips.regs = true) : memWf (settleChips s t).chips.regs = true := by
  unfold settleChips
  split
  · simpa [disturbChips] using memWf_free _
  · exact h

/-! ### The primitives, everything they can do -/

/-- A drive (R12): either it succeeds, the event is appended and the latch holds the level; or it fails with
`Transport(PinDrive)`, the event is appended all the same and the latch holds some level. -/
theorem drive_cases (x : Line) (b : Bool) (s : State) :
    (∃ t, drive x b s = (.ok (), t) ∧ SameBlock ((s.emit (.pin x b)).setLine x b) t ∧
        t = (chipsSeeDrive x b ((driveChoice x b s).2.emit (.pin x b))).setLine x b) ∨
      (∃ d t, drive x b s = (.err (.transport .pinDrive), t) ∧ SameBlock ((s.emit (.pin x b)).setLine x d) t ∧
        t = (chipsSeeFailedDrive x ((driveChoice x b s).2.emit (.pin x b))).setLine x d ∧ s.env = .oracle) := by
  have hc := (driveChoice_same x b s).1
  by_cases hf : (driveChoice x b s).1.fails = true
  · right
    have hs := (chipsSeeFailedDrive_same x ((driveChoice x b s).2.emit (.pin x b))).1
    refine ⟨(driveChoice x b s).1.b0.getLsbD 0, _, by simp only [drive, hf, if_true], ?_, rfl, ?_⟩
    · simp only [SameBlock, setLine_cfg, setLine_lines, setLine_buf0, setLine_buf1, setLine_comb, setLine_cfgtmp,
        setLine_seq, setLine_port, setLine_rsp, setLine_log, setLine_env, setLine_pinIn, setLine_sensed, emit_cfg,
        emit_lines, emit_buf0, emit_buf1, emit_comb, emit_cfgtmp, emit_seq, emit_port, emit_rsp, emit_log, emit_env,
        emit_pinIn, emit_sensed] at hs hc ⊢
      simp only [hs, hc, and_self]
    · by_contra hne
      simp [driveChoice, hne, noFailure] at hf
  · left
    have hs := (chipsSeeDrive_same x b ((driveChoice x b s).2.emit (.pin x b))).1
    refine ⟨_, by simp only [drive, hf]; rfl, ?_, rfl⟩
    simp only [SameBlock, setLine_cfg, setLine_lines, setLine_buf0, setLine_buf1, setLine_comb, setLine_cfgtmp,
      setLine_seq, setLine_port, setLine_rsp, setLine_log, setLine_env, setLine_pinIn, setLine_sensed, emit_cfg,
      emit_lines, emit_buf0, emit_buf1, emit_comb, emit_cfgtmp, emit_seq, emit_port, emit_rsp, emit_log, emit_env,
      emit_pinIn, emit_sensed] at hs hc ⊢
    simp only [hs, hc, and_self]

/-- An exchange (R14): either it succeeds with the two received bytes in `BUF`, or it fails with
`Transport(BusExchange)` and two draws in `BUF`; its event is appended either way. -/
theorem xfer_cases (t0 t1 : Byte) (s : State) :
    (∃ r0 r1 t, xfer t0 t1 s = (.ok (r0, r1), t) ∧ SameBlock ((s.emit (.xfer t0 t1 r0 r1)).setBuf r0 r1) t ∧
        t = (chipsTake t0 t1 ((xferChoice t0 t1 s).2.emit (.xfer t0 t1 r0 r1))).setBuf r0 r1 ∧
        (s.env = .reference → r0 = (referenceAnswer s).b0 ∧ r1 = (referenceAnswer s).b1)) ∨
      (∃ d0 d1 t, xfer t0 t1 s = (.err (.transport .busExchange), t) ∧
        SameBlock ((s.emit (.xferFail t0 t1)).setBuf d0 d1) t ∧
        t = (chipsMiss t0 ((xferChoice t0 t1 s).2.emit (.xferFail t0 t1))).setBuf d0 d1 ∧ s.env = .oracle) := by
  have hc := (xferChoice_same t0 t1 s).1
  have href : s.env = .reference → xferChoice t0 t1 s = (referenceAnswer s, s) := by
    intro h
    simp [xferChoice, h]
  by_cases hf : (xferChoice t0 t1 s).1.fails = true
  · right
    have hs := (chipsMiss_same t0 ((xferChoice t0 t1 s).2.emit (.xferFail t0 t1))).1
    refine ⟨(xferChoice t0 t1 s).1.b0, (xferChoice t0 t1 s).1.b1, _, by simp only [xfer, hf, if_true], ?_, rfl, ?_⟩
    · simp only [SameBlock, setBuf_cfg, setBuf_lines, setBuf_buf0, setBuf_buf1, setBuf_comb, setBuf_cfgtmp,
        setBuf_seq, setBuf_port, setBuf_rsp, setBuf_log, setBuf_env, setBuf_pinIn, setBuf_sensed, emit_cfg,
        emit_lines, emit_buf0, emit_buf1, emit_comb, emit_cfgtmp, emit_seq, emit_port, emit_rsp, emit_log, emit_env,
        emit_pinIn, emit_sensed] at hs hc ⊢
      simp only [hs, hc, and_self]
    · cases he : s.env
      · rfl
      · rw [href he] at hf
        have : (referenceAnswer s).fails = false := by
          unfold referenceAnswer
          repeat' split
          all_goals rfl
        rw [this] at hf
        cases hf
  · left
    have hs := (chipsTake_same t0 t1 ((xferChoice t0 t1 s).2.emit
      (.xfer t0 t1 (xferChoice t0 t1 s).1.b0 (xferChoice t0 t1 s).1.b1))).1
    refine ⟨_, _, _, by simp only [xfer, hf]; rfl, ?_, rfl, ?_⟩
    · simp only [SameBlock, setBuf_cfg, setBuf_lines, setBuf_buf0, setBuf_buf1, setBuf_comb, setBuf_cfgtmp,
        setBuf_seq, setBuf_port, setBuf_rsp, setBuf_log, setBuf_env, setBuf_pinIn, setBuf_sensed, emit_cfg,
        emit_lines, emit_buf0, emit_buf1, emit_comb, emit_cfgtmp, emit_seq, emit_port, emit_rsp, emit_log, emit_env,
        emit_pinIn, emit_sensed] at hs hc ⊢
      simp only [hs, hc, and_self]
    · intro he
      rw [href he]
      exact ⟨rfl, rfl⟩

/-- A configuration write (R121): either its frame succeeds and it is that register write, or the frame fails, at
whichever action, and the register it names is free besides. -/
theorem cfgWrite_cases (r v : Byte) (s : State) :
    (∃ t, regWrite r v s = (.ok (), t) ∧ cfgWrite r v s = (.ok (), t)) ∨
      (∃ e t, regWrite r v s = (.err e, t) ∧ cfgWrite r v s = (.err e, loseRegister r t)) := by
  rcases h : regWrite r v s with ⟨_ | e, t⟩
  · exact .inl ⟨t, rfl, onError_ok h⟩
  · exact .inr ⟨e, t, rfl, onError_err h⟩

end Sys2Proof.Machine
end

