-- ==== Sys2Proof/Laws/PerInstr.lean ====
section
/-! SUPPORT. What holds of every instruction as syntax: the word the encoder writes matches its row of
spec/opcode_table.json. -/

namespace Sys2Proof.Laws.RowMatch

/-- The bits of a word, whatever its boundary; a select code is 4 bits. -/
def bits : PortWord → Word
  | .cmd w => w
  | .frame w => w
  | .sel a => a.setWidth 16

/-- The fixed bits of an instruction's row of spec/opcode_table.json, as a mask and the row's bits under it. -/
def row : Instr → Word × Word
  | .init => (0xFFFF, 0x0000)
  | .setOutput _ _ => (0xF300, 0x1000)
  | .getOutputState _ => (0xFF00, 0x2000)
  | .getOutputSupply _ => (0xFF00, 0x3000)
  | .getOutputThermal _ => (0xFF00, 0x4000)
  | .getInput _ => (0xFF00, 0x5000)
  | .getInputSupply _ => (0xFF00, 0x6000)
  | .getInputThermal _ => (0xFF00, 0x7000)
  | .select _ _ => (0xFB00, 0x8000)
  | .peWritePort _ _ => (0xF300, 0x9000)
  | .peReadPort _ => (0xFF00, 0xA000)
  | .peCfgOutput _ _ => (0xF300, 0xB000)
  | .peCfgInput _ _ => (0xFB00, 0xC000)
  | .peCfgBits _ _ => (0xF300, 0xD000)
  | .peWakeup _ => (0xFBFF, 0xE000)
  | .diReadBit _ => (0xFF00, 0xF000)
  | .fPortWrite _ _ => (0xE0FE, 0x2000)
  | .fPortReadReq _ => (0xE0FF, 0xA000)
  | .fNop => (0xFFFF, 0x0000)
  | .fCfgReadReq _ => (0xF8FF, 0x8800)
  | .fCfgWrite _ _ => (0xF800, 0x0800)
  | .fGcfgWrite _ => (0xFF7F, 0x0401)
  | .direq16 => (0xFFFF, 0x5000)
  | .selOut1 => (0xF, 0xD)
  | .selOut2 => (0xF, 0xC)
  | .selOut3 => (0xF, 0xB)
  | .selOut4 => (0xF, 0xA)
  | .selOut5 => (0xF, 0x9)
  | .selOut6 => (0xF, 0x8)
  | .selIn1 => (0xF, 0x5)
  | .selIn2 => (0xF, 0x4)
  | .selIn3 => (0xF, 0x3)
  | .selIn4 => (0xF, 0x2)
  | .selIn5 => (0xF, 0x1)
  | .selIn6 => (0xF, 0x0)

/-- The encoder's word matches the instruction's row. -/
def Statement (i : Instr) : Prop := matchesRow (bits (encode i)) (row i).1 (row i).2 = true

theorem init : Statement .init := rfl

theorem setOutput (l : Level) (a : BitVec 8) : Statement (.setOutput l a) := by
  revert a
  cases l <;> unfold Statement <;> decide +kernel

theorem getOutputState (a : BitVec 8) : Statement (.getOutputState a) := by
  revert a
  unfold Statement
  decide +kernel

theorem getOutputSupply (b : Bank) : Statement (.getOutputSupply b) := by
  cases b <;> rfl

theorem getOutputThermal (b : Bank) : Statement (.getOutputThermal b) := by
  cases b <;> rfl

theorem getInput (a : BitVec 8) : Statement (.getInput a) := by
  revert a
  unfold Statement
  decide +kernel

theorem getInputSupply (b : Bank) : Statement (.getInputSupply b) := by
  cases b <;> rfl

theorem getInputThermal (b : Bank) : Statement (.getInputThermal b) := by
  cases b <;> rfl

theorem select (d : Direction) (b : Bank) : Statement (.select d b) := by
  cases d <;> cases b <;> rfl

theorem peWritePort (l : Level) (a : BitVec 8) : Statement (.peWritePort l a) := by
  revert a
  cases l <;> unfold Statement <;> decide +kernel

theorem peReadPort (a : BitVec 8) : Statement (.peReadPort a) := by
  revert a
  unfold Statement
  decide +kernel

theorem peCfgOutput (l : Level) (a : BitVec 8) : Statement (.peCfgOutput l a) := by
  revert a
  cases l <;> unfold Statement <;> decide +kernel

theorem peCfgInput (f : Bool) (a : BitVec 8) : Statement (.peCfgInput f a) := by
  revert a
  cases f <;> unfold Statement <;> decide +kernel

theorem peCfgBits (c : BitVec 2) (a : BitVec 8) : Statement (.peCfgBits c a) := by
  revert c a
  unfold Statement
  decide +kernel

theorem peWakeup (f : Bool) : Statement (.peWakeup f) := by
  cases f <;> rfl

theorem diReadBit (a : BitVec 8) : Statement (.diReadBit a) := by
  revert a
  unfold Statement
  decide +kernel

theorem fPortWrite (p : BitVec 5) (f : Bool) : Statement (.fPortWrite p f) := by
  revert p
  cases f <;> unfold Statement <;> decide +kernel

theorem fPortReadReq (p : BitVec 5) : Statement (.fPortReadReq p) := by
  revert p
  unfold Statement
  decide +kernel

theorem fNop : Statement .fNop := rfl

theorem fCfgReadReq (q : BitVec 3) : Statement (.fCfgReadReq q) := by
  revert q
  unfold Statement
  decide +kernel

theorem fCfgWrite (q : BitVec 3) (a : BitVec 8) : Statement (.fCfgWrite q a) := by
  revert q a
  unfold Statement
  decide +kernel

theorem fGcfgWrite (f : Bool) : Statement (.fGcfgWrite f) := by
  cases f <;> rfl

theorem direq16 : Statement .direq16 := rfl

theorem selOut1 : Statement .selOut1 := rfl

theorem selOut2 : Statement .selOut2 := rfl

theorem selOut3 : Statement .selOut3 := rfl

theorem selOut4 : Statement .selOut4 := rfl

theorem selOut5 : Statement .selOut5 := rfl

theorem selOut6 : Statement .selOut6 := rfl

theorem selIn1 : Statement .selIn1 := rfl

theorem selIn2 : Statement .selIn2 := rfl

theorem selIn3 : Statement .selIn3 := rfl

theorem selIn4 : Statement .selIn4 := rfl

theorem selIn5 : Statement .selIn5 := rfl

theorem selIn6 : Statement .selIn6 := rfl

end Sys2Proof.Laws.RowMatch
end

