-- ==== Sys2Proof/Laws/Run.lean ====
section
/-! SUPPORT. How the operations run when the environment fails nothing (`Quiet`): one lemma per primitive and one for
the frame, the register write, the register read, the selection and the load pulse. -/

namespace Sys2Proof.Machine

/-! ### Quiet environments -/

theorem quiet_mono {m n : Nat} {s : State} (h : m ≤ n) (hq : Quiet n s) : Quiet m s := by
  rcases hq with hr | ⟨hl, hc⟩
  · exact .inl hr
  · exact .inr ⟨le_trans h hl, fun c hcm => hc c ((List.take_subset_take_left s.script h) hcm)⟩

/-- Quietness is a matter of the environment's kind and its script. -/
theorem quiet_congr {n : Nat} {s t : State} (he : t.env = s.env) (hs : t.script = s.script) (h : Quiet n s) :
    Quiet n t := by
  simpa only [Quiet, he, hs] using h

/-- A quiet oracle's next choice is no failure, and it stays quiet for the rest. -/
theorem consult_quiet {n : Nat} {s : State} (act : EnvAction) (he : s.env = .oracle) (h : Quiet (n + 1) s) :
    (consult act s).1.fails = false ∧ Quiet n (consult act s).2 ∧ (consult act s).2.draws = s.draws := by
  rcases h with hr | ⟨hl, hc⟩
  · rw [he] at hr
    cases hr
  · unfold consult
    cases hs : s.script with
    | nil => simp [hs] at hl
    | cons c cs =>
      rw [hs] at hl hc
      exact ⟨hc c (by simp), .inr ⟨by simpa using hl, fun d hd => hc d (by simp [hd])⟩, rfl⟩

theorem driveChoice_quiet {n : Nat} {s : State} (x : Line) (b : Bool) (h : Quiet (n + 1) s) :
    (driveChoice x b s).1.fails = false ∧ Quiet n (driveChoice x b s).2 ∧ (driveChoice x b s).2.draws = s.draws := by
  unfold driveChoice
  split
  · rename_i hc
    exact consult_quiet _ hc.1 h
  · exact ⟨rfl, quiet_mono (Nat.le_succ n) h, rfl⟩

theorem xferChoice_quiet {n : Nat} {s : State} (t0 t1 : Byte) (h : Quiet (n + 1) s) :
    (xferChoice t0 t1 s).1.fails = false ∧ Quiet n (xferChoice t0 t1 s).2 ∧ (xferChoice t0 t1 s).2.draws = s.draws := by
  unfold xferChoice
  split
  · rename_i he
    exact consult_quiet _ he h
  · refine ⟨?_, quiet_mono (Nat.le_succ n) h, rfl⟩
    unfold referenceAnswer
    repeat' split
    all_goals rfl

/-! ### What an operation leaves, but for the part it is about -/

/-- The fields no interface action touches (R34), and the response port. -/
abbrev SameFixed (s t : State) : Prop := SameWorld s t ∧ t.rsp = s.rsp

/-- What a chip's answer to a frame depends on. -/
abbrev SameChipView (s t : State) : Prop :=
  t.chips = s.chips ∧ t.draws = s.draws ∧ t.lines.address = s.lines.address ∧ t.pinIn = s.pinIn

/-- A chip that sees the same gives the same answer. -/
theorem expanderTakes_congr {s t : State} (b : Bank) (t0 t1 : Byte) (h : SameChipView s t) :
    (expanderTakes b t0 t1 t).chips = (expanderTakes b t0 t1 s).chips ∧
      (expanderTakes b t0 t1 t).draws = (expanderTakes b t0 t1 s).draws := by
  obtain ⟨hc, hd, -, hp⟩ := h
  have hv : ∀ r, regValue t b r = regValue s b r := fun r => by simp only [regValue, hc, hp]
  unfold expanderTakes captureRead
  simp only [hc, hd, hv]
  repeat' split
  all_goals simp [hc, hd]

theorem chipsTake_congr {s t : State} (t0 t1 : Byte) (h : SameChipView s t) :
    (chipsTake t0 t1 t).chips = (chipsTake t0 t1 s).chips ∧
      (chipsTake t0 t1 t).draws = (chipsTake t0 t1 s).draws := by
  have ha := h.2.2.1
  unfold chipsTake
  simp only [ha]
  split
  · exact expanderTakes_congr _ t0 t1 h
  · exact ⟨h.1, h.2.1⟩
  · exact ⟨h.1, h.2.1⟩

/-! ### The primitives -/

/-- The chips answer a drive the same wherever they and the lines are the same. -/
theorem chipsSeeDrive_congr {s t : State} (x : Line) (b : Bool)
    (h : t.chips = s.chips ∧ t.draws = s.draws ∧ t.cfg = s.cfg ∧ t.sensed = s.sensed) :
    (chipsSeeDrive x b t).chips = (chipsSeeDrive x b s).chips ∧
      (chipsSeeDrive x b t).draws = (chipsSeeDrive x b s).draws := by
  obtain ⟨hc, hd, hcf, hse⟩ := h
  cases x <;> cases b <;> simp [chipsSeeDrive, sampleInputs, hc, hd, hcf, hse]

/-- No drive but that of `LOAD` has an effect of its own on the chips (R241). -/
theorem chipsSeeDrive_still {x : Line} (hx : x ≠ .load) (b : Bool) (s : State) : chipsSeeDrive x b s = s := by
  cases x <;> first
    | rfl
    | exact absurd rfl hx

@[simp] theorem chipsSeeDrive_cs (b : Bool) (s : State) : chipsSeeDrive .cs b s = s := rfl

/-- A quiet drive (R12): the event is appended and the latch holds the level. -/
theorem drive_quiet {n : Nat} {s : State} (x : Line) (b : Bool) (h : Quiet (n + 1) s) :
    ∃ t, drive x b s = (.ok (), t) ∧ Quiet n t ∧ SameBlock ((s.emit (.pin x b)).setLine x b) t ∧
      t.chips = (chipsSeeDrive x b s).chips ∧ t.draws = (chipsSeeDrive x b s).draws := by
  obtain ⟨hf, hq, hd⟩ := driveChoice_quiet x b h
  obtain ⟨hc, hch⟩ := driveChoice_same x b s
  have hs := chipsSeeDrive_same x b ((driveChoice x b s).2.emit (.pin x b))
  rcases drive_cases x b s with ⟨t, ht, hb, rfl⟩ | ⟨d, t, ht, -⟩
  · refine ⟨_, ht, ?_, hb, ?_, ?_⟩
    · exact quiet_congr (s := (driveChoice x b s).2) (by simp [hs.1]) (by simp [hs.2]) hq
    · exact (chipsSeeDrive_congr x b (by simp [hch, hd, hc])).1
    · exact (chipsSeeDrive_congr x b (by simp [hch, hd, hc])).2
  · simp [drive, hf] at ht

/-- A quiet exchange (R14). -/
theorem xfer_quiet {n : Nat} {s : State} (t0 t1 : Byte) (h : Quiet (n + 1) s) :
    ∃ r0 r1 t, xfer t0 t1 s = (.ok (r0, r1), t) ∧ Quiet n t ∧
      SameBlock ((s.emit (.xfer t0 t1 r0 r1)).setBuf r0 r1) t ∧
      t.chips = (chipsTake t0 t1 s).chips ∧ t.draws = (chipsTake t0 t1 s).draws ∧
      (s.env = .reference → r0 = (referenceAnswer s).b0 ∧ r1 = (referenceAnswer s).b1) := by
  obtain ⟨hf, hq, hd⟩ := xferChoice_quiet t0 t1 h
  obtain ⟨hc, hch⟩ := xferChoice_same t0 t1 s
  rcases xfer_cases t0 t1 s with ⟨r0, r1, t, ht, hb, rfl, hr⟩ | ⟨d0, d1, t, ht, -⟩
  · have hs := chipsTake_same t0 t1 ((xferChoice t0 t1 s).2.emit (.xfer t0 t1 r0 r1))
    have hg := chipsTake_congr t0 t1 (s := s) (t := (xferChoice t0 t1 s).2.emit (.xfer t0 t1 r0 r1))
      ⟨by simp [hch], by simp [hd], by simp [hc], by simp [hc]⟩
    refine ⟨r0, r1, _, ht, ?_, hb, by simpa using hg.1, by simpa using hg.2, hr⟩
    exact quiet_congr (s := (xferChoice t0 t1 s).2) (by simp [hs.1]) (by simp [hs.2]) hq
  · simp [xfer, hf] at ht

/-! ### The frame (R111) -/

/-- A quiet frame: six events, the two received bytes in `BUF`, `CS` high again, and the addressed chip has taken it. -/
theorem frame_quiet {n : Nat} {s : State} (t0 t1 : Byte) (h : Quiet (n + 3) s) :
    ∃ r0 r1 t, frame t0 t1 s = (.ok (r0, r1), t) ∧ Quiet n t ∧
      t.log = (frameTrace t0 t1 r0 r1).reverse ++ s.log ∧ t.lines = { s.lines with cs := true } ∧
      t.buf0 = r0 ∧ t.buf1 = r1 ∧ t.comb = s.comb ∧ t.cfgtmp = s.cfgtmp ∧ SameFixed s t ∧
      t.chips = (chipsTake t0 t1 s).chips ∧ t.draws = (chipsTake t0 t1 s).draws ∧
      (s.env = .reference → r0 = (referenceAnswer s).b0 ∧ r1 = (referenceAnswer s).b1) := by
  obtain ⟨u1, e1, q1, b1, c1, d1⟩ := drive_quiet .cs false h
  have q2 : Quiet (n + 2) (u1.emit (.delay Config.settleUs)) := quiet_congr rfl rfl q1
  obtain ⟨r0, r1, u3, e3, q3, b3, c3, d3, a3⟩ := xfer_quiet t0 t1 q2
  have q4 : Quiet (n + 1) (u3.emit (.delay Config.settleUs)) := quiet_congr rfl rfl q3
  obtain ⟨u5, e5, q5, b5, c5, d5⟩ := drive_quiet .cs true q4
  have hview : SameChipView s (u1.emit (.delay Config.settleUs)) := by
    simp [SameChipView, c1, d1, b1, Lines.address, Lines.set]
  have hg := chipsTake_congr t0 t1 hview
  refine ⟨r0, r1, u5.emit (.delay Config.settleUs), ?_, quiet_congr rfl rfl q5, ?_⟩
  · rw [frame, andThen_ok e1, andThen_settle, andThen_ok e3, andThen_settle, andThen_ok e5, andThen_settle]
    rfl
  · simp only [SameBlock, setLine_cfg, setLine_lines, setLine_buf0, setLine_buf1, setLine_comb, setLine_cfgtmp, setLine_seq,
      setLine_port, setLine_rsp, setLine_log, setLine_env, setLine_pinIn, setLine_sensed, emit_cfg, emit_lines, emit_buf0,
      emit_buf1, emit_comb, emit_cfgtmp, emit_port, emit_rsp, emit_log, emit_env, emit_pinIn, emit_sensed, setBuf_cfg,
      setBuf_lines, setBuf_buf0, setBuf_buf1, setBuf_comb, setBuf_cfgtmp, setBuf_port, setBuf_rsp, setBuf_log,
      setBuf_env, setBuf_pinIn, setBuf_sensed] at b1 b3 b5
    refine ⟨by simp [b1, b3, b5, frameTrace], by simp [b1, b3, b5, Lines.set], by simp [b3, b5], by simp [b3, b5],
      by simp [b1, b3, b5], by simp [b1, b3, b5], by simp [SameFixed, SameWorld, b1, b3, b5], by simp [c5, c3, hg],
      by simp [d5, d3, hg], fun he => ?_⟩
    · have hr := a3 (by simp [b1, he])
      have : referenceAnswer (u1.emit (.delay Config.settleUs)) = referenceAnswer s := by
        simp [referenceAnswer, b1, Lines.address, Lines.set, c1]
      rwa [this] at hr

/-- A quiet register write (R112): one frame. -/
theorem regWrite_quiet {n : Nat} {s : State} (r v : Byte) (h : Quiet (n + 3) s) :
    ∃ r0 r1 t, regWrite r v s = (.ok (), t) ∧ Quiet n t ∧
      t.log = (frameTrace r v r0 r1).reverse ++ s.log ∧ t.lines = { s.lines with cs := true } ∧
      t.buf0 = r0 ∧ t.buf1 = r1 ∧ t.comb = s.comb ∧ t.cfgtmp = s.cfgtmp ∧ SameFixed s t ∧
      t.chips = (chipsTake r v s).chips ∧ t.draws = (chipsTake r v s).draws := by
  obtain ⟨r0, r1, t, e, q, hl, hln, hb0, hb1, hco, hct, hfx, hch, hdr, -⟩ := frame_quiet r v h
  exact ⟨r0, r1, t, by rw [regWrite, andThen_ok e]; rfl, q, hl, hln, hb0, hb1, hco, hct, hfx, hch, hdr⟩

/-- A quiet configuration write is the register write (R121). -/
theorem cfgWrite_quiet {n : Nat} {s : State} (r v : Byte) (h : Quiet (n + 3) s) : cfgWrite r v s = regWrite r v s := by
  obtain ⟨r0, r1, t, e, -⟩ := regWrite_quiet (n := n) r v h
  rw [e]
  exact onError_ok e

/-- The no-operation frame changes no chip (R26, R62). -/
theorem chipsTake_nop (s : State) : chipsTake 0x00 0x00 s = s := by
  unfold chipsTake expanderTakes
  repeat' split
  all_goals first
    | rfl
    | (rename_i h; simp at h)

/-- A quiet register read (R113): the request frame, the no-operation frame, and the byte `PE_RESP_INDEX` of the latter's
response. -/
theorem regRead_quiet {n : Nat} {s : State} (r : Byte) (h : Quiet (n + 6) s) :
    ∃ q a t, regRead r s = (.ok (respByte s.cfg a), t) ∧ Quiet n t ∧
      t.log = (regReadTrace r q a).reverse ++ s.log ∧ t.lines = { s.lines with cs := true } ∧
      t.buf0 = a.1 ∧ t.buf1 = a.2 ∧ t.comb = s.comb ∧ t.cfgtmp = s.cfgtmp ∧ SameFixed s t ∧
      t.chips = (chipsTake (readRequest r) 0x00 s).chips ∧ t.draws = (chipsTake (readRequest r) 0x00 s).draws ∧
      (s.env = .reference → ∀ b, s.lines.address = chipAddr .dout b → respByte s.cfg a =
        (chipsTake (readRequest r) 0x00 s).chips.pend.get b) := by
  obtain ⟨q0, q1, u, e1, hq1, hl1, hln1, -, -, hco1, hct1, hfx1, hch1, hdr1, -⟩ :=
    frame_quiet (n := n + 3) (readRequest r) 0x00 h
  obtain ⟨a0, a1, t, e2, hq2, hl2, hln2, hb0, hb1, hco2, hct2, hfx2, hch2, hdr2, ha2⟩ := frame_quiet (n := n) 0x00 0x00 hq1
  obtain ⟨hw1, hr1⟩ := hfx1
  obtain ⟨hw2, hr2⟩ := hfx2
  rw [chipsTake_nop] at hch2 hdr2
  refine ⟨(q0, q1), (a0, a1), t, ?_, hq2, ?_, ?_, hb0, hb1, hco2.trans hco1, hct2.trans hct1, ?_,
    hch2.trans hch1, hdr2.trans hdr1, fun he b hb => ?_⟩
  · rw [regRead, andThen_ok e1, andThen_ok e2, andThen_readCfg, hw2.1, hw1.1]
    rfl
  · simp [hl1, hl2, regReadTrace, List.append_assoc]
  · simp [hln1, hln2]
  · exact ⟨⟨hw2.1.trans hw1.1, hw2.2.1.trans hw1.2.1, hw2.2.2.1.trans hw1.2.2.1, hw2.2.2.2.1.trans hw1.2.2.2.1,
      hw2.2.2.2.2.trans hw1.2.2.2.2⟩, hr2.trans hr1⟩
  · have ha := ha2 (hw1.2.1.trans he)
    have hadd : u.lines.address = chipAddr .dout b := by
      simpa [hln1, Lines.address] using hb
    simp only [referenceAnswer, hadd, chipAt_chipAddr, hw1.1] at ha
    cases hp : s.cfg.peRespIndex <;> simp [respByte, hp, ha, hch1]

/-! ### The selection (R102) and the load pulse (R141) -/

/-- A quiet selection: five events, and the select lines hold the address. -/
theorem select_quiet {n : Nat} {s : State} (a : ChipAddr) (h : Quiet (n + 4) s) :
    ∃ t, selectAddress a s = (.ok (), t) ∧ Quiet n t ∧ t.log = (selectTrace a).reverse ++ s.log ∧
      t.lines = s.lines.withAddress a ∧ t.buf0 = s.buf0 ∧ t.buf1 = s.buf1 ∧ t.comb = s.comb ∧ t.cfgtmp = s.cfgtmp ∧
      SameFixed s t ∧ t.chips = s.chips ∧ t.draws = s.draws := by
  obtain ⟨u1, e1, q1, b1, c1, d1⟩ := drive_quiet .a0 (a.getLsbD 0) h
  obtain ⟨u2, e2, q2, b2, c2, d2⟩ := drive_quiet .a1 (a.getLsbD 1) q1
  obtain ⟨u3, e3, q3, b3, c3, d3⟩ := drive_quiet .a2 (a.getLsbD 2) q2
  obtain ⟨u4, e4, q4, b4, c4, d4⟩ := drive_quiet .a3 (a.getLsbD 3) q3
  refine ⟨u4.emit (.delay Config.settleUs), by
    rw [selectAddress, andThen_ok e1, andThen_ok e2, andThen_ok e3, andThen_ok e4]
    rfl,
    quiet_congr rfl rfl q4, ?_⟩
  simp only [SameBlock, setLine_cfg, setLine_lines, setLine_buf0, setLine_buf1, setLine_comb, setLine_cfgtmp,
    setLine_port, setLine_rsp, setLine_log, setLine_env, setLine_pinIn, setLine_sensed, emit_cfg, emit_lines, emit_buf0,
    emit_buf1, emit_comb, emit_cfgtmp, emit_port, emit_rsp, emit_log, emit_env, emit_pinIn, emit_sensed] at b1 b2 b3 b4
  refine ⟨by simp [b1, b2, b3, b4, selectTrace], by simp [b1, b2, b3, b4, Lines.set, Lines.withAddress],
    by simp [b1, b2, b3, b4], by simp [b1, b2, b3, b4], by simp [b1, b2, b3, b4], by simp [b1, b2, b3, b4],
    by simp [SameFixed, SameWorld, b1, b2, b3, b4], ?_, ?_⟩
  · rw [chipsSeeDrive_still (by decide)] at c1 c2 c3 c4
    simp [c1, c2, c3, c4]
  · rw [chipsSeeDrive_still (by decide)] at d1 d2 d3 d4
    simp [d1, d2, d3, d4]

/-- A quiet load pulse: three events, `LOAD` high, and every serial-input chip has latched its inputs (R31, R64). -/
theorem loadPulse_quiet {n : Nat} {s : State} (h : Quiet (n + 2) s) :
    ∃ t, loadPulse s = (.ok (), t) ∧ Quiet n t ∧ t.log = pulseTrace.reverse ++ s.log ∧
      t.lines = { s.lines with load := true } ∧ t.buf0 = s.buf0 ∧ t.buf1 = s.buf1 ∧ t.comb = s.comb ∧
      t.cfgtmp = s.cfgtmp ∧ SameFixed s t ∧ t.chips = (sampleInputs s).chips ∧ t.draws = s.draws := by
  obtain ⟨u1, e1, q1, b1, c1, d1⟩ := drive_quiet .load false h
  have q2 : Quiet (n + 1) (u1.emit (.delay Config.settleUs)) := quiet_congr rfl rfl q1
  obtain ⟨u3, e3, q3, b3, c3, d3⟩ := drive_quiet .load true q2
  refine ⟨u3, by rw [loadPulse, andThen_ok e1, andThen_settle, e3], q3, ?_⟩
  simp only [SameBlock, setLine_cfg, setLine_lines, setLine_buf0, setLine_buf1, setLine_comb, setLine_cfgtmp,
    setLine_port, setLine_rsp, setLine_log, setLine_env, setLine_pinIn, setLine_sensed, emit_cfg, emit_lines, emit_buf0,
    emit_buf1, emit_comb, emit_cfgtmp, emit_port, emit_rsp, emit_log, emit_env, emit_pinIn, emit_sensed] at b1 b3
  refine ⟨by simp [b1, b3, pulseTrace], by simp [b1, b3, Lines.set], by simp [b1, b3], by simp [b1, b3], by simp [b1, b3],
    by simp [b1, b3], by simp [SameFixed, SameWorld, b1, b3], ?_, ?_⟩
  · simpa [chipsSeeDrive, c1] using c3
  · simpa [chipsSeeDrive, sampleInputs, d1] using d3

end Sys2Proof.Machine
end

