-- ==== Sys2Proof/Tests/Slice0.lean ====
section
/-! SUPPORT. Tests: the checks of WellFormed refuse ill-formed terms; words written out from the encoding tables decode
to their instructions; one step of every instruction gives what spec/95_test_vectors.md says. Expected values come from
the spec's tables, named at each test. -/

namespace Sys2Proof.Tests

open Sys2Proof Sys2Proof.Machine

/-! ### WellFormed: one ill-formed term for each check (R72) -/

theorem test_wf_refuses_port_write_3 :
    (Instr.fPortWrite 3 true).wf = false ∧ (Instr.fPortWrite 4 true).wf = true := by decide

theorem test_wf_refuses_port_read_3 :
    (Instr.fPortReadReq 3).wf = false ∧ (Instr.fPortReadReq 31).wf = true := by decide

theorem test_wf_refuses_cfg_read_0 : (Instr.fCfgReadReq 0).wf = false ∧ (Instr.fCfgReadReq 1).wf = true := by decide

theorem test_wf_refuses_cfg_write_0 :
    (Instr.fCfgWrite 0 0x55).wf = false ∧ (Instr.fCfgWrite 7 0x55).wf = true := by decide

/-! ### Decoding: words written bit by bit from R70, R72, R77, R80, R81 -/

/-- `op aux 00 arg` (R80, R81): the operation layer. -/
theorem test_decode_facade :
    decodeWord true (.cmd 0b0000000000000000) = .ok .init ∧
    decodeWord true (.cmd 0b0001010000100101) = .ok (.setOutput .high 37) ∧
    decodeWord true (.cmd 0b0001100000000001) = .ok (.setOutput .hiz 1) ∧
    decodeWord true (.cmd 0b0010000000100101) = .ok (.getOutputState 37) ∧
    decodeWord true (.cmd 0b0011000000000110) = .ok (.getOutputSupply .b6) ∧
    decodeWord true (.cmd 0b0100000000000001) = .ok (.getOutputThermal .b1) ∧
    decodeWord true (.cmd 0b0101000000001001) = .ok (.getInput 9) ∧
    decodeWord true (.cmd 0b0110000000000010) = .ok (.getInputSupply .b2) ∧
    decodeWord true (.cmd 0b0111000000000101) = .ok (.getInputThermal .b5) := by decide

/-- The component level (R81). -/
theorem test_decode_component :
    decodeWord true (.cmd 0b1000010000000101) = .ok (.select .dout .b5) ∧
    decodeWord true (.cmd 0b1000000000000011) = .ok (.select .din .b3) ∧
    decodeWord true (.cmd 0b1001100000000100) = .ok (.peWritePort .hiz 4) ∧
    decodeWord true (.cmd 0b1010000000010000) = .ok (.peReadPort 16) ∧
    decodeWord true (.cmd 0b1011100000000100) = .ok (.peCfgOutput .hiz 4) ∧
    decodeWord true (.cmd 0b1100010000001100) = .ok (.peCfgInput true 12) ∧
    decodeWord true (.cmd 0b1101010000000101) = .ok (.peCfgBits 0b01 5) ∧
    decodeWord true (.cmd 0b1101110000011111) = .ok (.peCfgBits 0b11 31) ∧
    decodeWord true (.cmd 0b1110010000000000) = .ok (.peWakeup true) ∧
    decodeWord true (.cmd 0b1111000000001001) = .ok (.diReadBit 9) := by decide

/-- The refused words of spec/95_test_vectors.md section 2.8, by name. -/
theorem test_decode_refuses :
    decodeWord true (.cmd 0x0001) = .error .argNotZero ∧ decodeWord true (.cmd 0x0400) = .error .auxNotZero ∧
    decodeWord true (.cmd 0x1C25) = .error .noLevel ∧ decodeWord true (.cmd 0x1525) = .error .zeroFieldSet ∧
    decodeWord true (.cmd 0x1625) = .error .zeroFieldSet ∧ decodeWord true (.cmd 0x2425) = .error .auxNotZero ∧
    decodeWord true (.cmd 0x3000) = .error .noBank ∧ decodeWord true (.cmd 0x3007) = .error .noBank ∧
    decodeWord true (.cmd 0x8805) = .error .flagHighBitSet ∧ decodeWord true (.cmd 0xE001) = .error .argNotZero ∧
    decodeWord false (.cmd 0x8405) = .error .componentOpsHidden := by decide

/-- The frames (R72, R77), byte 0 the high byte. -/
theorem test_decode_frames :
    decodeWord true (.frame 0b0010100000000001) = .ok (.fPortWrite 8 true) ∧
    decodeWord true (.frame 0b1011000000000000) = .ok (.fPortReadReq 16) ∧
    decodeWord true (.frame 0b0000000000000000) = .ok .fNop ∧
    decodeWord true (.frame 0b1000100100000000) = .ok (.fCfgReadReq 1) ∧
    decodeWord true (.frame 0b0000111111000000) = .ok (.fCfgWrite 7 0xC0) ∧
    decodeWord true (.frame 0b0000010010000001) = .ok (.fGcfgWrite true) ∧
    decodeWord true (.frame 0b0000010000000001) = .ok (.fGcfgWrite false) ∧
    decodeWord true (.frame 0b0101000000000000) = .ok .direq16 ∧
    decodeWord true (.frame 0b0010001100000001) = .error .noFrame ∧
    decodeWord true (.frame 0b1000100000000000) = .error .noFrame := by decide

/-- The twelve select codes (R101), and the four that are no code (R70). -/
theorem test_decode_select_codes :
    decodeWord true (.sel 0b1101) = .ok .selOut1 ∧ decodeWord true (.sel 0b1100) = .ok .selOut2 ∧
    decodeWord true (.sel 0b1011) = .ok .selOut3 ∧ decodeWord true (.sel 0b1010) = .ok .selOut4 ∧
    decodeWord true (.sel 0b1001) = .ok .selOut5 ∧ decodeWord true (.sel 0b1000) = .ok .selOut6 ∧
    decodeWord true (.sel 0b0101) = .ok .selIn1 ∧ decodeWord true (.sel 0b0100) = .ok .selIn2 ∧
    decodeWord true (.sel 0b0011) = .ok .selIn3 ∧ decodeWord true (.sel 0b0010) = .ok .selIn4 ∧
    decodeWord true (.sel 0b0001) = .ok .selIn5 ∧ decodeWord true (.sel 0b0000) = .ok .selIn6 ∧
    decodeWord true (.sel 6) = .error .noSelectCode ∧ decodeWord true (.sel 15) = .error .noSelectCode := by decide

/-! ### One step -/

/-- Reset with drives that cannot fail and an oracle that answers the exchanges with the given bytes. -/
def answered (answers : List (Byte × Byte)) : State :=
  { State.reset with
    cfg := { Params.default with pinDriveCanFail := false }
    script := answers.map fun a => { fails := false, b0 := a.1, b1 := a.2 } }

/-- Reset with an oracle that lets each of the next drives and exchanges succeed (`false`) or fail. -/
def failing (fails : List Bool) : State :=
  { State.reset with script := fails.map fun f => { fails := f, b0 := 0, b1 := 0 } }

/-- Reset with the reference responder (R61) and the select lines at a chip. -/
def atChip (a : ChipAddr) : State :=
  { State.reset with env := .reference, lines := State.reset.lines.withAddress a }

/-- The exchanges of a trace, `[t0, t1; r0, r1]`, as the word sent and the word received. -/
def exchanges (s : State) : List (Word × Word) :=
  s.trace.filterMap fun e =>
    match e with
    | .xfer t0 t1 r0 r1 => some (t0 ++ t1, r0 ++ r1)
    | .xferFail _ _ => none
    | .pin _ _ => none
    | .delay _ => none

/-- What one instruction shows: the response, the exchanges, the number of events, the address on the select lines. -/
structure Shown where
  rsp : Option Word
  frames : List (Word × Word)
  events : Nat
  address : Nat
deriving DecidableEq, Repr

/-- What one instruction shows from a state. -/
def shown (i : Instr) (s : State) : Option Shown :=
  match exec i s with
  | .next t => some ⟨t.rsp, exchanges t, t.log.length, t.lines.address.toNat⟩
  | .fault _ => none
  | .refused _ => none

/-- The response, the whole trace and the latches one instruction leaves. -/
def left (i : Instr) (s : State) : Option (Option Word × List Event × Lines) :=
  match exec i s with
  | .next t => some (t.rsp, t.trace, t.lines)
  | .fault _ => none
  | .refused _ => none

/-- A register of the state an instruction leaves. -/
def regAfter (i : Instr) (s : State) (b : Bank) (r : RegAddr) : Option Byte :=
  match exec i s with
  | .next t => some (t.chips.reg b r)
  | .fault _ => none
  | .refused _ => none

/-- `INIT` on the reference responder from all zero (program P4): events, bank 1's registers, its pending value, the
address left. -/
theorem test_init_p4 :
    (match exec .init (atChip 0) with
      | .next t => some (t.rsp, t.log.length,
          [(0x04 : RegAddr), 0x09, 0x0A, 0x0B, 0x0C, 0x0D, 0x0E, 0x24, 0x2B].map fun r => t.chips.reg .b1 r,
          t.chips.pend.b1, t.lines.address.toNat)
      | .fault _ => none
      | .refused _ => none) =
      some (some 0x0000, 2514, [0x01, 0x55, 0x55, 0xFF, 0xFF, 0xFA, 0x00, 0x00, 0x00], 0x3A, 8) := by
  decide +kernel

/-- F1, program P1: `SET_OUTPUT 37, HIGH`. -/
theorem test_set_output_f1 :
    left (.setOutput .high 37) (answered [(0x5A, 0xA5)]) = some (some 0x0000,
      [.pin .a0 true, .pin .a1 false, .pin .a2 false, .pin .a3 true, .delay 2,
        .pin .cs false, .delay 2, .xfer 0x28 0x01 0x5A 0xA5, .delay 2, .pin .cs true, .delay 2],
      { a0 := true, a1 := false, a2 := false, a3 := true, cs := true, load := true }) := by decide

/-- E8: `SET_OUTPUT 37, HIGH`, the exchange fails. -/
theorem test_set_output_e8 :
    left (.setOutput .high 37) (failing [false, false, false, false, false, true]) = some (some 0x6000,
      [.pin .a0 true, .pin .a1 false, .pin .a2 false, .pin .a3 true, .delay 2,
        .pin .cs false, .delay 2, .xferFail 0x28 0x01],
      { a0 := true, a1 := false, a2 := false, a3 := true, cs := false, load := true }) := by decide

/-- F7: `GET_OUTPUT_STATE 37`, answers 0x01, 0x00, 0x00. -/
theorem test_get_output_state_f7 :
    shown (.getOutputState 37) (answered [(0, 0), (0, 1), (0, 0), (0, 0), (0, 0), (0, 0)]) =
      some ⟨some 0x0001, [(0xB400, 0x0000), (0x0000, 0x0001), (0xB500, 0x0000),
        (0x0000, 0x0000), (0xB000, 0x0000), (0x0000, 0x0000)], 41, 9⟩ := by decide

/-- F8: the bank is unpowered. -/
theorem test_get_output_state_f8 :
    shown (.getOutputState 37) (answered [(0, 0), (0, 0), (0, 0), (0, 0)]) =
      some ⟨some 0x2000, [(0xB400, 0x0000), (0x0000, 0x0000), (0xB500, 0x0000), (0x0000, 0x0000)], 29, 9⟩ := by decide

/-- F5: `GET_OUTPUT_SUPPLY 5`, answers 0x01, 0x00: `V12`. -/
theorem test_get_output_supply_f5 :
    shown (.getOutputSupply .b5) (answered [(0, 0), (0, 1), (0, 0), (0, 0)]) =
      some ⟨some 0x0002, [(0xB400, 0x0000), (0x0000, 0x0001), (0xB500, 0x0000), (0x0000, 0x0000)], 29, 9⟩ := by decide

/-- F10: `GET_OUTPUT_THERMAL 1`, answers 0x00, 0x01: `Warm`. -/
theorem test_get_output_thermal_f10 :
    shown (.getOutputThermal .b1) (answered [(0, 0), (0, 0), (0, 0), (0, 1)]) =
      some ⟨some 0x0001, [(0xB600, 0x0000), (0x0000, 0x0000), (0xB700, 0x0000), (0x0000, 0x0001)], 29, 13⟩ := by decide

/-- F11: answers 0x01, 0x00: `Hot`. -/
theorem test_get_output_thermal_f11 :
    shown (.getOutputThermal .b1) (answered [(0, 0), (0, 1), (0, 0), (0, 0)]) =
      some ⟨some 0x0002, [(0xB600, 0x0000), (0x0000, 0x0001), (0xB700, 0x0000), (0x0000, 0x0000)], 29, 13⟩ := by decide

/-- F14: `GET_INPUT 9`. -/
theorem test_get_input_f14 :
    left (.getInput 9) (answered [(0x01, 0x0A)]) = some (some 0x0001,
      [.pin .a0 false, .pin .a1 false, .pin .a2 true, .pin .a3 false, .delay 2,
        .pin .load false, .delay 2, .pin .load true,
        .pin .cs false, .delay 2, .xfer 0x50 0x00 0x01 0x0A, .delay 2, .pin .cs true, .delay 2],
      { a0 := false, a1 := false, a2 := true, a3 := false, cs := true, load := true }) := by decide

/-- E11: the parity check fails after the whole sequence. -/
theorem test_get_input_e11 :
    shown (.getInput 9) (answered [(0x01, 0x2A)]) = some ⟨some 0x4000, [(0x5000, 0x012A)], 14, 4⟩ := by decide

/-- F17: `GET_INPUT_SUPPLY 2`: `Powered`. -/
theorem test_get_input_supply_f17 :
    shown (.getInputSupply .b2) (answered [(0xA5, 0x4A)]) = some ⟨some 0x0001, [(0x5000, 0xA54A)], 14, 4⟩ := by
  decide

/-- F18: `GET_INPUT_THERMAL 2`: `Hot`. -/
theorem test_get_input_thermal_f18 :
    shown (.getInputThermal .b2) (answered [(0xA5, 0x4A)]) = some ⟨some 0x0002, [(0x5000, 0xA54A)], 14, 4⟩ := by
  decide

/-- Section 2.1, `SELECT OUT, 5`. -/
theorem test_select_out_5 :
    left (.select .dout .b5) (answered []) = some (some 0x0000,
      [.pin .a0 true, .pin .a1 false, .pin .a2 false, .pin .a3 true, .delay 2],
      { a0 := true, a1 := false, a2 := false, a3 := true, cs := true, load := true }) := by decide

/-- Section 2.1: the drive of `A[2]` fails in `SELECT OUT, 5`. -/
theorem test_select_fails_at_a2 :
    left (.select .dout .b5) (failing [false, false, true]) = some (some 0x7000,
      [.pin .a0 true, .pin .a1 false, .pin .a2 false],
      { a0 := true, a1 := false, a2 := false, a3 := false, cs := true, load := true }) := by decide

/-- V4: `PE_WRITE_PORT 8, HIGH`. -/
theorem test_pe_write_port_v4 :
    shown (.peWritePort .high 8) (answered [(7, 9)]) = some ⟨some 0x0000, [(0x2801, 0x0709)], 6, 0⟩ := by decide

/-- V22: `drive(CS, 1)` fails. -/
theorem test_pe_write_port_v22 :
    left (.peWritePort .high 8) (failing [false, false, true]) = some (some 0x7000,
      [.pin .cs false, .delay 2, .xfer 0x28 0x01 0 0, .delay 2, .pin .cs true],
      { a0 := false, a1 := false, a2 := false, a3 := false, cs := false, load := true }) := by decide

/-- V13: `PE_READ_PORT 16`, answered 0x80. -/
theorem test_pe_read_port_v13 :
    shown (.peReadPort 16) (answered [(0, 0), (0, 0x80)]) =
      some ⟨some 0x0001, [(0xB000, 0x0000), (0x0000, 0x0080)], 12, 0⟩ := by decide

/-- V14: the other response byte is ignored. -/
theorem test_pe_read_port_v14 :
    shown (.peReadPort 16) (answered [(0, 0), (0xFF, 0)]) =
      some ⟨some 0x0000, [(0xB000, 0x0000), (0x0000, 0xFF00)], 12, 0⟩ := by decide

/-- V35: `PE_CFG_OUTPUT 11, HIGH`. -/
theorem test_pe_cfg_output_v35 :
    shown (.peCfgOutput .high 11) (answered [(0, 0), (0, 0), (0, 0x15), (0, 0)]) =
      some ⟨some 0x0000, [(0x2B01, 0x0000), (0x8A00, 0x0000), (0x0000, 0x0015), (0x0A55, 0x0000)], 24, 0⟩ := by decide

/-- V40: `PE_CFG_INPUT 23, 1`. -/
theorem test_pe_cfg_input_v40 :
    shown (.peCfgInput true 23) (answered [(0, 0), (0, 0x3A), (0, 0)]) =
      some ⟨some 0x0000, [(0x8D00, 0x0000), (0x0000, 0x003A), (0x0DFA, 0x0000)], 18, 0⟩ := by decide

/-- V30: `PE_CFG_BITS 5, 0b01`. -/
theorem test_pe_cfg_bits_v30 :
    shown (.peCfgBits 0b01 5) (answered [(0, 0), (0, 0xFF), (0, 0)]) =
      some ⟨some 0x0000, [(0x8900, 0x0000), (0x0000, 0x00FF), (0x09F7, 0x0000)], 18, 0⟩ := by decide

/-- V32: the field 0b00 is written as given. -/
theorem test_pe_cfg_bits_v32 :
    shown (.peCfgBits 0b00 4) (answered [(0, 0), (0, 0xFF), (0, 0)]) =
      some ⟨some 0x0000, [(0x8900, 0x0000), (0x0000, 0x00FF), (0x09FC, 0x0000)], 18, 0⟩ := by decide

/-- V20: `PE_WAKEUP 1`. -/
theorem test_pe_wakeup_v20 :
    shown (.peWakeup true) (answered [(0, 0)]) = some ⟨some 0x0000, [(0x0481, 0x0000)], 6, 0⟩ := by decide

/-- V54: `DI_READ_BIT 9`. -/
theorem test_di_read_bit_v54 :
    shown (.diReadBit 9) (answered [(0xA5, 0x4A)]) = some ⟨some 0x0001, [(0x5000, 0xA54A)], 9, 0⟩ := by decide

/-- V59: `drive(LOAD, 1)` fails. -/
theorem test_di_read_bit_v59 :
    left (.diReadBit 0) (failing [false, true]) = some (some 0x7000,
      [.pin .load false, .delay 2, .pin .load true],
      { a0 := false, a1 := false, a2 := false, a3 := false, cs := true, load := false }) := by decide

/-- The frame of V1 stores in port register 0x24 of the chip at address 13 (R62). -/
theorem test_f_port_write : regAfter (.fPortWrite 4 true) (atChip 13) .b1 0x24 = some 0x01 := by decide

/-- The request of V11: one frame, `Ok`. -/
theorem test_f_port_read_req :
    shown (.fPortReadReq 16) (atChip 13) = some ⟨some 0x0000, [(0xB000, 0x0000)], 6, 13⟩ := by decide

/-- The no-operation frame: one frame, `Ok`; no chip is at address 14, the reference answers 0xFF, 0xFF (R65). -/
theorem test_f_nop : shown .fNop (atChip 14) = some ⟨some 0x0000, [(0x0000, 0xFFFF)], 6, 14⟩ := by decide

/-- The request of a configuration register (R72): byte 0 is 0x88 | q. -/
theorem test_f_cfg_read_req :
    shown (.fCfgReadReq 7) (atChip 8) = some ⟨some 0x0000, [(0x8F00, 0x0000)], 6, 8⟩ := by decide

/-- The configuration write of program P4's last port stores in register 0x0D. -/
theorem test_f_cfg_write : regAfter (.fCfgWrite 5 0xFA) (atChip 12) .b2 0x0D = some 0xFA := by decide

/-- V19 on the reference responder: register 0x04 holds 0x01. -/
theorem test_f_gcfg_write : regAfter (.fGcfgWrite false) (atChip 11) .b3 0x04 = some 0x01 := by decide

/-- R64: the chip that senses nothing latches 0x5400, which validates (section 2.4, row 0x5400). -/
theorem test_direq16 :
    shown .direq16 (atChip 5) = some ⟨some 0x0000, [(0x5000, 0x002A)], 9, 5⟩ := by decide

/-- Program P3: `GET_INPUT 9` with `d` = 0x301: the chip latches 0x5301. -/
theorem test_reference_input_p3 :
    shown (.getInput 9) { atChip 0 with sensed := State.reset.sensed.set .b2 0x301 } =
      some ⟨some 0x0001, [(0x5000, 0x01CA)], 14, 4⟩ := by decide

/-- The select codes of the output chips (R101): the address left on the lines. -/
theorem test_select_codes_out :
    [Instr.selOut1, .selOut2, .selOut3, .selOut4, .selOut5, .selOut6].map (fun i => shown i (answered [])) =
      [13, 12, 11, 10, 9, 8].map fun a => some ⟨some 0x0000, [], 5, a⟩ := by decide

/-- The select codes of the input chips (R101). -/
theorem test_select_codes_in :
    [Instr.selIn1, .selIn2, .selIn3, .selIn4, .selIn5, .selIn6].map (fun i => shown i (answered [])) =
      [5, 4, 3, 2, 1, 0].map fun a => some ⟨some 0x0000, [], 5, a⟩ := by decide

/-- `step` from reset with a word placed runs that word's instruction. -/
theorem test_step_runs_placed_word :
    step (State.reset.withFetchWord 16 0x1425) = exec (.setOutput .high 37) State.reset := rfl

/-- A refused word has no step (R82). -/
theorem test_step_refuses : step (State.reset.withFetchWord 16 0x1C25) = .refused (.spellsNothing .noFrame) := rfl

/-- E13 and V22 at bank 1's output chip: a write whose exchange fails leaves the chip untouched; one whose
`drive(CS, 1)` fails has been taken, and stays written (R50, R209). -/
theorem test_failed_port_write :
    let at13 (fails : List Bool) := { failing fails with lines := State.reset.lines.withAddress 13 }
    regAfter (.peWritePort .high 4) (at13 [true]) .b1 0x24 = some 0x00 ∧
    regAfter (.peWritePort .high 4) (at13 [false, true]) .b1 0x24 = some 0x00 ∧
    regAfter (.peWritePort .high 4) (at13 [false, false, true]) .b1 0x24 = some 0x01 := by decide

/-- R121: a configuration write whose `drive(CS, 0)` fails leaves the register it names free, here 0x0F of bank 6's chip. -/
theorem test_failed_cs_frees_named_register :
    let s := { failing [true] with lines := State.reset.lines.withAddress 8 }
    (match exec (.fCfgWrite 7 0xC0) s with
      | .next t => some (t.rsp, t.chips)
      | .fault _ => none
      | .refused _ => none) = some (some 0x7000, s.chips.setReg .b6 0x0F (Config.freeByte 0 0)) := rfl

/-- R244: a command that acts while `LOAD` is low leaves every chip free. -/
theorem test_load_low_frees_the_chips :
    let s := { failing [false, false, false] with lines := { State.reset.lines with load := false } }
    (match exec .fNop s with
      | .next t => some (t.rsp, t.chips)
      | .fault _ => none
      | .refused _ => none) = some (some 0x0000, Chips.free 0) := rfl

/-- R172: a constant Hot bit is a choice of the open parameter. -/
theorem test_constant_hot_bit :
    let t : ThermalDecode := { hot := ⟨true, true, true⟩, warm := ⟨false, false, false⟩ }
    outThermal t .high .high = .hot ∧ outThermal t .low .low = .hot := by decide

/-! ### Witnesses: for every statement with hypotheses, a state and operands that meet them together -/

/-- An oracle whose next 1300 choices are written and fail nothing, the select lines at a chip. -/
def quietAt (a : ChipAddr) : State :=
  { State.reset with
    lines := State.reset.lines.withAddress a
    script := List.replicate 1300 { fails := false, b0 := 0, b1 := 0 } }

/-- The reference responder at the output chip of bank 1, awake, port 4 an output. -/
def awakeAt13 : State :=
  { atChip 13 with chips := (Chips.reset.setReg .b1 0x04 0x01).setReg .b1 0x09 0x01 }

theorem quietAt_quiet (a : ChipAddr) (n : Nat) (h : n ≤ 1300) : Quiet n (quietAt a) :=
  .inr ⟨Nat.le_trans h (Nat.le_of_eq (List.length_replicate (n := 1300)).symm),
    fun c hc => by rw [List.eq_of_mem_replicate (List.mem_of_mem_take hc)]⟩

theorem quietAt_follow (a : ChipAddr) : ChipsFollowRules (quietAt a) := .inr ⟨rfl, rfl⟩

theorem atChip_quiet (a : ChipAddr) (n : Nat) : Quiet n (atChip a) := .inl rfl

theorem test_witness_EncodedInstructionDecodesToItself :
    (Instr.fPortWrite 4 true).wf = true ∧ (Instr.fCfgWrite 7 0xFF).wf = true ∧ (Instr.setOutput .low 255).wf = true := by
  decide

theorem test_witness_DecodedWordIsTheEncodingOfItsInstruction :
    decodeWord false (.cmd 0x1425) = .ok (.setOutput .high 37) ∧
    decodeWord true (.frame 0x3F01) = .ok (.fPortWrite 31 true) ∧ decodeWord true (.sel 13) = .ok .selOut1 := by decide

theorem test_witness_CommandPortAcceptsExactlyTheCommandWords :
    (State.reset.withFetchWord 16 0x3006).port = some (.cmd 0x3006) ∧ (State.reset.withFetchWord 16 0x3006).seq = .idle ∧
    spellsCommand true 0x3006 = true ∧ spellsCommand true 0x3007 = false ∧ spellsCommand true 0x3000 = false ∧
    spellsCommand false 0x8405 = false ∧ spellsCommand false 0x7006 = true := by decide

theorem test_witness_StepRunsTheDecodedInstruction :
    (State.reset.withFetchWord 4 13).port = some (.sel 13) ∧ (State.reset.withFetchWord 4 13).seq = .idle ∧
    decodeWord (State.reset.withFetchWord 4 13).cfg.exposeComponentOps (.sel 13) = .ok .selOut1 := by decide

theorem test_witness_UpdateFieldChangesOnlyItsField : 0 ∈ [0, 2, 4, 6] ∧ 6 ∈ [0, 2, 4, 6] ∧ (6 : Nat) ≠ 0 := by decide

theorem test_witness_LogicalAddressesTranslateOneToOne :
    (1 ≤ (1 : BitVec 8).toNat ∧ (1 : BitVec 8).toNat ≤ 48) ∧ (1 ≤ (48 : BitVec 8).toNat ∧ (48 : BitVec 8).toNat ≤ 48) := by
  decide

theorem test_witness_PhysicalAddressesOfAChannel : (1 ≤ 1 ∧ 1 ≤ 8) ∧ (1 ≤ 8 ∧ 8 ≤ 8) := by decide

theorem test_witness_RegisterBytesOfPorts :
    (4 ≤ (4 : Byte).toNat ∧ (4 : Byte).toNat ≤ 31) ∧ (4 ≤ (31 : Byte).toNat ∧ (31 : Byte).toNat ≤ 31) := by decide

/-- Section 2.4: the accepted words 0x5001 and 0x57FF, the words past the header's ends; both parity modes. -/
theorem test_witness_SerialWordAcceptance :
    Params.default.diHeader = 0x5000 ∧ headerOk Params.default 0x5000 = true ∧ headerOk Params.default 0x57FF = true ∧
    headerOk Params.default 0x4FFF = false ∧ headerOk Params.default 0x5800 = false ∧
    wordAccepted Params.default 0x5001 = true ∧ wordAccepted Params.default 0x57FF = true ∧
    Params.default.diParityMode = .asImplemented ∧
    headerOk { Params.default with diParityMode := .agreement } 0x5000 = true := by decide

theorem test_witness_OutputDiagnosticDecodings :
    diagAsserted Params.default.outThermal.hot .low .low = true ∧
    diagAsserted Params.default.outThermal.hot .low .high = false ∧
    diagAsserted Params.default.outThermal.warm .low .high = true ∧
    diagAsserted Params.default.outThermal.warm .high .high = false := by decide

theorem test_witness_SelectPlacesTheChipAddress :
    Quiet 4 (quietAt 6) ∧ ChipsFollowRules (quietAt 6) ∧ selCode .din .b6 = .selIn6 ∧ selCode .dout .b1 = .selOut1 :=
  ⟨quietAt_quiet _ _ (by decide), quietAt_follow _, rfl, rfl⟩

theorem test_witness_SelectStopsAtTheFailedDrive :
    (failing [false, false, false, true]).env = .oracle ∧
    (failing [false, false, false, true]).cfg.pinDriveCanFail = true ∧
    (failing [false, false, false, true]).script =
      [⟨false, 0, 0⟩, ⟨false, 0, 0⟩, ⟨false, 0, 0⟩] ++ (⟨true, 0, 0⟩ : EnvChoice) :: [] ∧
    (failing [true]).script = [] ++ (⟨true, 0, 0⟩ : EnvChoice) :: [] ∧ LinesIdle (failing [true]) ∧
    selCode .din .b6 = .selIn6 := by decide

theorem test_witness_OneFrameInstructionsSendTheirFrame :
    OneFrame (.peWritePort .high 4) (0x20 + 4) 0x01 ∧ OneFrame (.peWritePort .hiz 31) (0x20 + 31) 0x00 ∧
    OneFrame (.fCfgWrite 7 0xC0) (0x08 + (7 : BitVec 3).setWidth 8) 0xC0 ∧ Quiet 3 (quietAt 13) :=
  ⟨.writeHigh 4 (by decide), .writeHiz 31 (by decide), .cfgWrite 7 0xC0 (by decide), quietAt_quiet _ _ (by decide)⟩

theorem test_witness_WriteFrameStoresOneByte :
    OneFrame (.peWakeup true) 0x04 0x81 ∧ (0x04 : Byte).getLsbD 7 = false ∧ (0x04 : Byte) ≠ 0x00 ∧
    Quiet 3 (quietAt 13) ∧ ChipsFollowRules (quietAt 13) ∧ memWf (quietAt 13).chips.regs = true ∧
    Addresses (quietAt 13) .dout .b1 ∧ (∀ b, ¬Addresses (quietAt 5) .dout b) :=
  ⟨.wakeupIrq, by decide, by decide, quietAt_quiet _ _ (by decide), quietAt_follow _, rfl, rfl, fun b => by cases b <;> decide⟩

theorem test_witness_RequestFrameCapturesTheRegister :
    OneFrame (.fPortReadReq 4) (0xA0 + (4 : BitVec 5).setWidth 8) 0x00 ∧
    (0xA0 + (4 : BitVec 5).setWidth 8 : Byte).getLsbD 7 = true ∧ OneFrame .fNop 0x00 0x00 ∧ Quiet 3 awakeAt13 ∧
    ChipsFollowRules awakeAt13 ∧ Addresses awakeAt13 .dout .b1 ∧ (∀ b, ¬Addresses (atChip 5) .dout b) ∧
    isPortReg (regOf 0xA4) = true ∧
    isPortReg (regOf 0xBF) = true ∧ isPortReg (regOf 0x8F) = false ∧ awakeAt13.chips.awake .b1 = true :=
  ⟨.portReadReq 4 (by decide), by decide, .nop, .inl rfl, .inl rfl, rfl, fun b => by cases b <;> decide, by decide,
    by decide, by decide, by decide⟩

theorem test_witness_ReadPortReturnsTheResponseByte :
    4 ≤ (31 : Byte).toNat ∧ (31 : Byte).toNat ≤ 31 ∧ Quiet 6 (quietAt 13) ∧ ChipsFollowRules (quietAt 13) :=
  ⟨by decide, by decide, quietAt_quiet _ _ (by decide), quietAt_follow _⟩

theorem test_witness_CfgFieldIsReadModifyWritten :
    OneField (.peCfgBits 0b00 4) 0b00 4 ∧ OneField (.peCfgInput true 31) 0b11 31 ∧ Quiet 9 (quietAt 8) ∧
    ChipsFollowRules (quietAt 8) ∧ memWf (quietAt 8).chips.regs = true ∧ Addresses (quietAt 8) .dout .b6 ∧
    (∀ b, ¬Addresses (quietAt 7) .dout b) :=
  ⟨.bits _ 4 (by decide), .inputPullup 31 (by decide), quietAt_quiet _ _ (by decide), quietAt_follow _, rfl, rfl,
    fun b => by cases b <;> decide⟩

theorem test_witness_CfgOutputWritesLevelThenMode :
    Level.hiz ≠ .low ∧ 4 ≤ (4 : Byte).toNat ∧ (4 : Byte).toNat ≤ 31 ∧ Quiet 12 (quietAt 8) ∧
    ChipsFollowRules (quietAt 8) ∧ memWf (quietAt 8).chips.regs = true ∧ Addresses (quietAt 8) .dout .b6 ∧
    (∀ b, ¬Addresses (quietAt 7) .dout b) :=
  ⟨by decide, by decide, by decide, quietAt_quiet _ _ (by decide), quietAt_follow _, rfl, rfl, fun b => by cases b <;> decide⟩

theorem test_witness_FieldUpdateKeepsTheOtherPorts :
    OneField (.peCfgBits 0b10 7) 0b10 7 ∧ awakeAt13.env = .reference ∧ memWf awakeAt13.chips.regs = true ∧
    Addresses awakeAt13 .dout .b1 :=
  ⟨.bits _ 7 (by decide), rfl, by decide, rfl⟩

theorem test_witness_OutputPortReadsBackWhatWasWritten :
    awakeAt13.env = .reference ∧ memWf awakeAt13.chips.regs = true ∧ Addresses awakeAt13 .dout .b1 ∧
    awakeAt13.chips.awake .b1 = true ∧ awakeAt13.chips.portField .b1 (4 : Byte).toNat = 0b01 := by decide

theorem test_witness_InputPortReadsItsPin :
    4 ≤ (31 : Byte).toNat ∧ (31 : Byte).toNat ≤ 31 ∧ awakeAt13.env = .reference ∧ Addresses awakeAt13 .dout .b1 ∧
    awakeAt13.chips.awake .b1 = true ∧ awakeAt13.chips.portField .b1 (31 : Byte).toNat ≠ 0b01 := by decide

/-- Both clauses: an answer that validates (V54) and one that does not (V57); an input chip, an output chip. -/
theorem test_witness_ReadFrameThenValidates :
    (9 : Byte).toNat ≤ 9 ∧ Quiet 5 (quietAt 5) ∧ ChipsFollowRules (quietAt 5) ∧ (∀ b, ¬Addresses (quietAt 5) .dout b) ∧
    Addresses (quietAt 13) .dout .b1 ∧ wordAccepted State.reset.cfg (combined 0xA5 0x4A) = true ∧
    wordAccepted State.reset.cfg (combined 0x01 0x2A) = false :=
  ⟨by decide, quietAt_quiet _ _ (by decide), quietAt_follow _, fun b => by cases b <;> decide, rfl, by decide, by decide⟩

theorem test_witness_SensedBitIsReadBack :
    (atChip 5).env = .reference ∧ HeaderClean (atChip 5).cfg ∧ Addresses (atChip 5) .din .b1 ∧ (9 : Byte).toNat ≤ 9 := by
  decide

/-- Local ports 1 and 8: the logical addresses 1 and 48. -/
theorem test_witness_SetOutputWritesTheEnablePort :
    Level.high ≠ .low ∧ (1 : BitVec 8).toNat = (bankOrdinal .b1 - 1) * 8 + 1 ∧
    (48 : BitVec 8).toNat = (bankOrdinal .b6 - 1) * 8 + 8 ∧ Quiet 7 (quietAt 0) ∧ ChipsFollowRules (quietAt 0) ∧
    memWf (quietAt 0).chips.regs = true :=
  ⟨by decide, by decide, by decide, quietAt_quiet _ _ (by decide), quietAt_follow _, rfl⟩

theorem test_witness_OutputDiagnosticsReadTwoPorts : Quiet 16 (quietAt 0) ∧ ChipsFollowRules (quietAt 0) :=
  ⟨quietAt_quiet _ _ (by decide), quietAt_follow _⟩

/-- Both clauses: the default table decodes to `Unpowered` and to something else (F8, F7). -/
theorem test_witness_OutputStateNeedsASupply :
    (48 : BitVec 8).toNat = (bankOrdinal .b6 - 1) * 8 + 8 ∧ Quiet 22 (quietAt 0) ∧ ChipsFollowRules (quietAt 0) ∧
    outSupply State.reset.cfg.outSupply .low .low = .unpowered ∧
    outSupply State.reset.cfg.outSupply .high .low ≠ .unpowered :=
  ⟨by decide, quietAt_quiet _ _ (by decide), quietAt_follow _, by decide, by decide⟩

theorem test_witness_OutputQueriesAnswerThePins :
    let s := { awakeAt13 with pinIn := awakeAt13.pinIn.set .b1 0x00100000 }
    s.env = .reference ∧ s.chips.awake .b1 = true ∧ s.chips.portField .b1 20 ≠ 0b01 ∧ s.chips.portField .b1 21 ≠ 0b01 ∧
    s.chips.portField .b1 22 ≠ 0b01 ∧ s.chips.portField .b1 23 ≠ 0b01 ∧ s.chips.portField .b1 (8 + 11) ≠ 0b01 ∧
    (8 : BitVec 8).toNat = (bankOrdinal .b1 - 1) * 8 + 8 ∧
    outSupply s.cfg.outSupply (pinLevel ((s.pinIn.get .b1).getLsbD 20)) (pinLevel ((s.pinIn.get .b1).getLsbD 21)) ≠
      .unpowered := by decide

theorem test_witness_InputQueriesDecodeOneBit :
    (48 : BitVec 8).toNat = (bankOrdinal .b6 - 1) * 8 + 8 ∧ Quiet 9 (quietAt 0) ∧ ChipsFollowRules (quietAt 0) ∧
    wordAccepted State.reset.cfg (combined 0x80 0x0A) = true ∧ wordAccepted State.reset.cfg (combined 0xFF 0xFF) = false :=
  ⟨by decide, quietAt_quiet _ _ (by decide), quietAt_follow _, by decide, by decide⟩

theorem test_witness_InputQueriesAnswerTheSensedData :
    (atChip 0).env = .reference ∧ HeaderClean (atChip 0).cfg ∧ (9 : BitVec 8).toNat = (bankOrdinal .b2 - 1) * 8 + 1 := by
  decide

theorem test_witness_InitRunsAllSixBanks : Quiet 1266 (quietAt 0) ∧ Quiet 1266 (atChip 0) :=
  ⟨quietAt_quiet _ _ (by decide), atChip_quiet _ _⟩

theorem test_witness_InitConfiguresEveryBank : awakeAt13.env = .reference ∧ memWf awakeAt13.chips.regs = true := by decide

theorem test_witness_LogicalOutsideRangeIsTurnedAway :
    ((0 : BitVec 8).toNat < 1 ∨ 48 < (0 : BitVec 8).toNat) ∧ ((49 : BitVec 8).toNat < 1 ∨ 48 < (49 : BitVec 8).toNat) := by
  decide

theorem test_witness_PortOutsideRangeIsTurnedAway :
    ((3 : BitVec 8).toNat < 4 ∨ 31 < (3 : BitVec 8).toNat) ∧ ((32 : BitVec 8).toNat < 4 ∨ 31 < (32 : BitVec 8).toNat) := by
  decide

/-- Every clause: a port at each end; logical address 37 (E7); an instruction that answers 0x3000 (V9). -/
theorem test_witness_LowIsTheOneCauseOfUnsupportedLevel :
    4 ≤ (4 : Byte).toNat ∧ (31 : Byte).toNat ≤ 31 ∧ (37 : BitVec 8).toNat = (bankOrdinal .b5 - 1) * 8 + 5 ∧
    Quiet 4 (quietAt 0) ∧ ChipsFollowRules (quietAt 0) ∧
    ∃ t, exec (.peWritePort .low 8) State.reset = .next t ∧ t.rsp = some 0x3000 :=
  ⟨by decide, by decide, by decide, quietAt_quiet _ _ (by decide), quietAt_follow _, _, rfl, by decide⟩

/-- E11 and V58: the parity check and the header check. -/
theorem test_witness_DiParityOnlyAfterAWholeFrame :
    (∃ t, exec (.getInput 9) (answered [(0x01, 0x2A)]) = .next t ∧ ∃ w, t.rsp = some w ∧ rspStatus w = 4) ∧
    (∃ t, exec (.diReadBit 0) (answered [(0x01, 0x1A)]) = .next t ∧ ∃ w, t.rsp = some w ∧ rspStatus w = 4) :=
  ⟨⟨_, rfl, 0x4000, by decide, by decide⟩, ⟨_, rfl, 0x4000, by decide, by decide⟩⟩

theorem test_witness_IllegalInputHasTwoCauses :
    ((0 : BitVec 8).toNat < 1 ∧ 48 < (49 : BitVec 8).toNat ∧ 9 < (10 : BitVec 8).toNat) ∧
    ∃ t, exec (.diReadBit 10) State.reset = .next t ∧ t.rsp = some 0x1000 := ⟨by decide, _, rfl, by decide⟩

/-- E2 and F8. -/
theorem test_witness_IllegalOutputHasNoOtherCause :
    (∃ t, exec (.setOutput .high 49) State.reset = .next t ∧ t.rsp = some 0x2000) ∧
    ∃ t, exec (.getOutputState 37) (answered [(0, 0), (0, 0), (0, 0), (0, 0)]) = .next t ∧ t.rsp = some 0x2000 :=
  ⟨⟨_, rfl, by decide⟩, _, rfl, by decide⟩

/-- V21 and V22. -/
theorem test_witness_TransportErrorsStopAtOnce :
    (∃ t, exec (.peWritePort .high 8) (failing [false, true]) = .next t ∧ t.rsp = some 0x6000) ∧
    ∃ t, exec (.peWritePort .high 8) (failing [false, false, true]) = .next t ∧ t.rsp = some 0x7000 :=
  ⟨⟨_, rfl, by decide⟩, _, rfl, by decide⟩

theorem test_witness_NotPresentIsNeverRaised : ∃ t, exec .fNop (atChip 13) = .next t := ⟨_, rfl⟩

/-- Every clause: the first, the second, the third choice fails; an output chip addressed, and none. -/
theorem test_witness_FailedExchangeLeavesCsLow :
    let s := { failing [false, false, true] with lines := State.reset.lines.withAddress 13 }
    OneFrame (.peWritePort .high 8) (0x20 + 8) 0x01 ∧ OneFrame (.fCfgWrite 7 0xC0) (0x08 + (7 : BitVec 3).setWidth 8) 0xC0 ∧
    (failing [true]).script = (⟨true, 0, 0⟩ : EnvChoice) :: [] ∧
    (failing [false, true]).script = (⟨false, 0, 0⟩ : EnvChoice) :: ⟨true, 0, 0⟩ :: [] ∧
    s.script = (⟨false, 0, 0⟩ : EnvChoice) :: ⟨false, 0, 0⟩ :: ⟨true, 0, 0⟩ :: [] ∧ s.env = .oracle ∧
    s.cfg.pinDriveCanFail = true ∧ LinesIdle s ∧ memWf s.chips.regs = true ∧ Addresses s .dout .b1 ∧
    LinesIdle (failing [true]) ∧ (∀ b, ¬Addresses (failing [true]) .dout b) ∧
    (0x28 : Byte).getLsbD 7 = false ∧ (∀ q v, Instr.peWritePort .high 8 ≠ .fCfgWrite q v) :=
  ⟨.writeHigh 8 (by decide), .cfgWrite 7 0xC0 (by decide), rfl, rfl, rfl, rfl, rfl, ⟨rfl, rfl⟩, rfl, rfl, ⟨rfl, rfl⟩,
    fun b => by cases b <;> decide, by decide, fun _ _ h => by cases h⟩

theorem test_witness_ReferenceResponderNeverFails :
    (atChip 13).env = .reference ∧ ∃ t, exec (.peWakeup true) (atChip 13) = .next t := ⟨rfl, _, rfl⟩

theorem test_witness_StepKeepsTheInvariant :
    let s := { awakeAt13 with port := some (.cmd 0x9404) }
    (memWf s.chips.regs = true ∧ s.seq = .idle ∧ s.rsp = none) ∧ ∃ t, step s = .next t ∧ t.rsp = some 0x0000 :=
  ⟨by decide, _, rfl, by decide⟩

/-- An error of another kind keeps the lines idle (E7). -/
theorem test_witness_LinesStayIdleWithoutTransportError :
    LinesIdle (answered []) ∧ ∃ t, exec (.setOutput .low 37) (answered []) = .next t ∧ t.rsp = some 0x3000 :=
  ⟨by decide, _, rfl, by decide⟩

theorem test_witness_InstructionsLeaveTheWorldAlone : ∃ t, exec .direq16 State.reset = .next t := ⟨_, rfl⟩

theorem test_witness_OnlyTableFramesAreSent :
    (Instr.fPortWrite 4 true).wf = true ∧ ∃ t, exec (.fPortWrite 4 true) State.reset = .next t := ⟨rfl, _, rfl⟩

theorem test_witness_ReadsStoreNothing :
    StoresNothing (.getInput 9) ∧ ChipsFollowRules State.reset ∧ ∃ t, exec (.getInput 9) State.reset = .next t :=
  ⟨.input 9, .inr ⟨rfl, rfl⟩, _, rfl⟩

theorem test_witness_SetOutputTouchesOneRegister :
    (8 : BitVec 8).toNat = (bankOrdinal .b1 - 1) * 8 + 8 ∧ ChipsFollowRules State.reset ∧
    ∃ t, exec (.setOutput .high 8) State.reset = .next t := ⟨by decide, .inr ⟨rfl, rfl⟩, _, rfl⟩

theorem test_witness_InitTouchesOnlyItsRegisters :
    ChipsFollowRules State.reset ∧ (∃ t, exec .init State.reset = .next t) ∧ initWrites 0x0E = false ∧
    initWrites 0x23 = false ∧ initWrites 0x2C = false ∧ initWrites 0x08 = false :=
  ⟨.inr ⟨rfl, rfl⟩, ⟨_, rfl⟩, by decide, by decide, by decide, by decide⟩

theorem test_witness_AwakeChipsStayAwake :
    (Instr.peCfgBits 0b00 4).wf = true ∧ ChipsFollowRules awakeAt13 ∧ memWf awakeAt13.chips.regs = true ∧
    awakeAt13.chips.awake .b1 = true ∧ ∃ t, exec (.peWakeup true) awakeAt13 = .next t :=
  ⟨by decide, .inl rfl, by decide, by decide, _, rfl⟩

theorem test_witness_OperationLayerIgnoresEarlierSelection :
    ReachesBus (.setOutput .high 48) ∧ ReachesBus (.getInput 1) ∧ Quiet 4 (quietAt 5) :=
  ⟨.setOutput _ _ (by decide), .input _ (by decide), quietAt_quiet _ _ (by decide)⟩

end Sys2Proof.Tests
end

section
/-! SUPPORT. The statements of the family scope: a step runs the instruction its word decodes to (O4), and what the
instructions of one frame leave when the frame fails (O47). -/

namespace Sys2Proof.Machine

/-! ### One step (R6, R24) -/

/-- Settles O4: an idle sequencer takes the word from the port, and what the word decodes to is run. -/
theorem stepRunsTheDecodedInstruction : Obligations.StepRunsTheDecodedInstruction := by
  intro s w i hport hseq hdecode
  simp only [step, hport, hseq, hdecode, State.accept]

/-! ### The addressed chip -/

/-- A chip address names the chip of the direction and bank whose `chip_addr` it is, and no other (R41, R101). -/
theorem chipAt_eq_some_iff (a : ChipAddr) (d : Direction) (b : Bank) : chipAt a = some (d, b) ↔ a = chipAddr d b := by
  revert a
  cases d <;> cases b <;> decide

theorem chipAt_of_addresses {s : State} {d : Direction} {b : Bank} (h : Addresses s d b) :
    chipAt s.lines.address = some (d, b) := (chipAt_eq_some_iff _ d b).2 h

theorem chipAt_ne_of_unaddressed {s : State} (h : ∀ b, ¬Addresses s .dout b) (b : Bank) :
    chipAt s.lines.address ≠ some (.dout, b) := fun hb => h b ((chipAt_eq_some_iff _ _ _).1 hb)

/-- With no port expander addressed, the chips take no exchange. -/
theorem chipsTake_unaddressed (t0 t1 : Byte) {s : State} (h : ∀ b, ¬Addresses s .dout b) : chipsTake t0 t1 s = s := by
  unfold chipsTake
  split
  · exact absurd ‹_› (chipAt_ne_of_unaddressed h _)
  · rfl
  · rfl

theorem chipsMiss_unaddressed (t0 : Byte) {s : State} (h : ∀ b, ¬Addresses s .dout b) : chipsMiss t0 s = s := by
  unfold chipsMiss
  split
  · exact absurd ‹_› (chipAt_ne_of_unaddressed h _)
  · rfl
  · rfl

theorem loseRegister_unaddressed (r : Byte) {s : State} (h : ∀ b, ¬Addresses s .dout b) : loseRegister r s = s := by
  unfold loseRegister
  split
  · exact absurd ‹_› (chipAt_ne_of_unaddressed h _)
  · rfl
  · rfl

theorem chipsTake_addressed (t0 t1 : Byte) {s : State} {b : Bank} (h : Addresses s .dout b) :
    chipsTake t0 t1 s = expanderTakes b t0 t1 s := by
  simp only [chipsTake, chipAt_of_addresses h]

theorem chipsMiss_addressed (t0 : Byte) {s : State} {b : Bank} (h : Addresses s .dout b) :
    chipsMiss t0 s = expanderMisses b t0 s := by
  simp only [chipsMiss, chipAt_of_addresses h]

theorem loseRegister_addressed (r : Byte) {s : State} {b : Bank} (h : Addresses s .dout b) :
    loseRegister r s = (s.setChips (s.chips.setReg b (regOf r) (Config.freeByte s.draws 0))).drawn := by
  simp only [loseRegister, chipAt_of_addresses h]

/-! ### What a chip does with a frame -/

/-- A read request writes no register and no frame register (R30, R62). -/
theorem captureRead_keeps (b : Bank) (r : RegAddr) (s : State) :
    (captureRead b r s).chips.regs = s.chips.regs ∧ (captureRead b r s).chips.lat = s.chips.lat := by
  unfold captureRead
  split <;> simp

/-- An exchange writes no frame register (R31, R62). -/
theorem chipsTake_lat (t0 t1 : Byte) (s : State) : (chipsTake t0 t1 s).chips.lat = s.chips.lat := by
  unfold chipsTake expanderTakes
  repeat' split
  · exact (captureRead_keeps _ _ s).2
  all_goals simp

/-- A write frame stores its second byte in the register it names (R29, R62). -/
theorem chipsTake_write {t0 : Byte} (t1 : Byte) {s : State} {b : Bank} (hb : Addresses s .dout b)
    (hw : t0.getLsbD 7 = false) (hz : t0 ≠ 0x00) : (chipsTake t0 t1 s).chips = s.chips.setReg b (regOf t0) t1 := by
  rw [chipsTake_addressed t0 t1 hb, expanderTakes, if_neg (by rw [hw]; exact Bool.false_ne_true), if_neg hz]
  rfl

/-- A frame writes no register but the one it names (R62). -/
theorem chipsTake_mem (t0 t1 : Byte) {s : State} {b : Bank} (hb : Addresses s .dout b) :
    SameMemExcept (regAddr b (regOf t0)) s (chipsTake t0 t1 s) := by
  intro x hx
  rw [chipsTake_addressed t0 t1 hb]
  unfold expanderTakes
  split
  · rw [(captureRead_keeps b _ s).1]
  · split
    · rfl
    · simpa using memRead_memWrite_other hx s.chips.regs

/-- The chips miss a frame the same wherever they and the select lines are the same. -/
theorem chipsMiss_congr {s t : State} (t0 : Byte) (h : SameChipView s t) :
    (chipsMiss t0 t).chips = (chipsMiss t0 s).chips := by
  obtain ⟨hc, hd, ha, -⟩ := h
  unfold chipsMiss expanderMisses
  simp only [ha]
  repeat' split
  all_goals simp [hc, hd]

/-- A failed exchange that is no read request changes no chip (E13, V23). -/
theorem chipsMiss_write {t0 : Byte} (s : State) (hw : t0.getLsbD 7 = false) : chipsMiss t0 s = s := by
  unfold chipsMiss expanderMisses
  rw [hw]
  split <;> rfl

/-- A failed exchange changes no pending read value but the addressed chip's. -/
theorem chipsMiss_pend_other (t0 : Byte) {s : State} {b c : Bank} (hb : Addresses s .dout b) (hc : c ≠ b) :
    (chipsMiss t0 s).chips.pend.get c = s.chips.pend.get c := by
  rw [chipsMiss_addressed t0 hb]
  unfold expanderMisses
  split
  · simpa using six_get_set_other s.chips.pend b c _ hc
  · rfl

/-- A lost register is the only one lost (R121). -/
theorem loseRegister_mem (r : Byte) {s : State} {b : Bank} (hb : Addresses s .dout b) :
    SameMemExcept (regAddr b (regOf r)) s (loseRegister r s) := by
  intro x hx
  rw [loseRegister_addressed r hb]
  simpa using memRead_memWrite_other hx s.chips.regs

theorem loseRegister_hidden (r : Byte) (s : State) : SameHidden s (loseRegister r s) := by
  unfold loseRegister
  split <;> simp [SameHidden]

/-! ### The oracle's scripted choices (R12, R14, R60) -/

theorem driveChoice_scripted {s : State} {c : EnvChoice} {cs : List EnvChoice} (x : Line) (b : Bool)
    (he : s.env = .oracle) (hp : s.cfg.pinDriveCanFail = true) (hs : s.script = c :: cs) :
    driveChoice x b s = (c, { s with script := cs }) := by
  simp only [driveChoice, consult, he, hp, hs, and_self, if_true]

theorem xferChoice_scripted {s : State} {c : EnvChoice} {cs : List EnvChoice} (t0 t1 : Byte)
    (he : s.env = .oracle) (hs : s.script = c :: cs) : xferChoice t0 t1 s = (c, { s with script := cs }) := by
  simp only [xferChoice, consult, he, hs]

/-- A drive of `CS` whose scripted choice is no failure. -/
theorem drive_cs_scripted_ok {s : State} {c : EnvChoice} {cs : List EnvChoice} (b : Bool) (he : s.env = .oracle)
    (hp : s.cfg.pinDriveCanFail = true) (hs : s.script = c :: cs) (hc : c.fails = false) :
    ∃ u, drive .cs b s = (.ok (), u) ∧ SameBlock ((s.emit (.pin .cs b)).setLine .cs b) u ∧ u.script = cs ∧
      u.chips = s.chips ∧ u.draws = s.draws := by
  refine ⟨(({ s with script := cs } : State).emit (.pin .cs b)).setLine .cs b, ?_, ?_⟩
  · simp [drive, driveChoice_scripted .cs b he hp hs, hc]
  · simp [SameBlock]

/-- A drive of `CS` whose scripted choice is a failure: bit 0 of the choice is left in the latch, and no chip
changes. -/
theorem drive_cs_scripted_err {s : State} {c : EnvChoice} {cs : List EnvChoice} (b : Bool) (he : s.env = .oracle)
    (hp : s.cfg.pinDriveCanFail = true) (hs : s.script = c :: cs) (hc : c.fails = true) :
    ∃ u, drive .cs b s = (.err (.transport .pinDrive), u) ∧
      SameBlock ((s.emit (.pin .cs b)).setLine .cs (c.b0.getLsbD 0)) u ∧ u.chips = s.chips := by
  refine ⟨(({ s with script := cs } : State).emit (.pin .cs b)).setLine .cs (c.b0.getLsbD 0), ?_, ?_⟩
  · simp only [drive, driveChoice_scripted .cs b he hp hs, hc, chipsSeeFailedDrive, if_true]
  · simp [SameBlock]

/-- An exchange whose scripted choice is no failure: the addressed chip takes it. -/
theorem xfer_scripted_ok {s : State} {c : EnvChoice} {cs : List EnvChoice} (t0 t1 : Byte) (he : s.env = .oracle)
    (hs : s.script = c :: cs) (hc : c.fails = false) :
    ∃ u, xfer t0 t1 s = (.ok (c.b0, c.b1), u) ∧
      SameBlock ((s.emit (.xfer t0 t1 c.b0 c.b1)).setBuf c.b0 c.b1) u ∧ u.script = cs ∧
      u.chips = (chipsTake t0 t1 s).chips := by
  have hview : SameChipView s (({ s with script := cs } : State).emit (.xfer t0 t1 c.b0 c.b1)) := by
    simp [SameChipView]
  obtain ⟨hblock, hscript⟩ := chipsTake_same t0 t1 (({ s with script := cs } : State).emit (.xfer t0 t1 c.b0 c.b1))
  refine ⟨_, by simp only [xfer, xferChoice_scripted t0 t1 he hs, hc]; rfl, ?_, ?_, ?_⟩
  · simp [SameBlock, hblock]
  · simp [hscript]
  · simpa using (chipsTake_congr t0 t1 hview).1

/-- An exchange whose scripted choice is a failure: the addressed chip misses it. -/
theorem xfer_scripted_err {s : State} {c : EnvChoice} {cs : List EnvChoice} (t0 t1 : Byte) (he : s.env = .oracle)
    (hs : s.script = c :: cs) (hc : c.fails = true) :
    ∃ u, xfer t0 t1 s = (.err (.transport .busExchange), u) ∧
      SameBlock ((s.emit (.xferFail t0 t1)).setBuf c.b0 c.b1) u ∧ u.chips = (chipsMiss t0 s).chips := by
  have hview : SameChipView s (({ s with script := cs } : State).emit (.xferFail t0 t1)) := by simp [SameChipView]
  obtain ⟨hblock, -⟩ := chipsMiss_same t0 (({ s with script := cs } : State).emit (.xferFail t0 t1))
  refine ⟨_, by simp only [xfer, xferChoice_scripted t0 t1 he hs, hc, if_true]; rfl, ?_, ?_⟩
  · simp [SameBlock, hblock]
  · simpa using chipsMiss_congr t0 hview

/-! ### Where a frame fails (R125, R209) -/

/-- The frame up to its exchange: `CS` low and the delay, both done. -/
theorem frame_scripted_select {s : State} {c : EnvChoice} {cs : List EnvChoice} (t0 t1 : Byte)
    (he : s.env = .oracle) (hp : s.cfg.pinDriveCanFail = true) (hs : s.script = c :: cs) (hc : c.fails = false) :
    ∃ u, frame t0 t1 s = andThen (xfer t0 t1) (fun r => andThen settle fun _ => andThen (drive .cs true) fun _ =>
        andThen settle fun _ => ret r) u ∧ u.script = cs ∧ u.env = .oracle ∧ u.cfg = s.cfg ∧
      u.log = [.delay Config.settleUs, .pin .cs false] ++ s.log ∧ u.lines = { s.lines with cs := false } ∧
      SameWorking s u ∧ SameChipView s u := by
  obtain ⟨u, hdrive, hblock, hscript, hchips, hdraws⟩ := drive_cs_scripted_ok false he hp hs hc
  refine ⟨u.emit (.delay Config.settleUs), by rw [frame, andThen_ok hdrive, andThen_settle], hscript, ?_⟩
  simp [SameWorking, SameChipView, hblock, hchips, hdraws, he, Lines.set, Lines.address]

/-- A frame whose `drive(CS, 0)` fails has done nothing else. -/
theorem frame_fails_at_start {s : State} {bad : EnvChoice} {rest : List EnvChoice} (t0 t1 : Byte)
    (he : s.env = .oracle) (hp : s.cfg.pinDriveCanFail = true) (hs : s.script = bad :: rest)
    (hbad : bad.fails = true) :
    ∃ u, frame t0 t1 s = (.err (.transport .pinDrive), u) ∧ u.log = .pin .cs false :: s.log ∧
      u.lines = { s.lines with cs := bad.b0.getLsbD 0 } ∧ SameWorking s u ∧ u.chips = s.chips := by
  obtain ⟨u, hdrive, hblock, hchips⟩ := drive_cs_scripted_err false he hp hs hbad
  refine ⟨u, by rw [frame, andThen_err hdrive], ?_⟩
  simp [SameWorking, hblock, hchips, Lines.set]

/-- A frame whose exchange fails leaves `CS` low and the draws in `BUF`, and the addressed chip has missed it. -/
theorem frame_fails_at_exchange {s : State} {c0 bad : EnvChoice} {rest : List EnvChoice} (t0 t1 : Byte)
    (he : s.env = .oracle) (hp : s.cfg.pinDriveCanFail = true) (hs : s.script = c0 :: bad :: rest)
    (hc0 : c0.fails = false) (hbad : bad.fails = true) :
    ∃ u, frame t0 t1 s = (.err (.transport .busExchange), u) ∧
      u.log = [.xferFail t0 t1, .delay Config.settleUs, .pin .cs false] ++ s.log ∧
      u.lines = { s.lines with cs := false } ∧ u.buf0 = bad.b0 ∧ u.buf1 = bad.b1 ∧ u.comb = s.comb ∧
      u.cfgtmp = s.cfgtmp ∧ u.chips = (chipsMiss t0 s).chips := by
  obtain ⟨v, hframe, hscript, henv, -, hlog, hlines, hwork, hview⟩ := frame_scripted_select t0 t1 he hp hs hc0
  obtain ⟨u, hxfer, hblock, hchips⟩ := xfer_scripted_err t0 t1 henv hscript hbad
  refine ⟨u, by rw [hframe, andThen_err hxfer], ?_⟩
  simp [hblock, hchips, hlog, hlines, hwork, chipsMiss_congr t0 hview]

/-- A frame whose `drive(CS, 1)` fails has reached the addressed chip, and its answer is in `BUF` (R50). -/
theorem frame_fails_at_end {s : State} {c0 c bad : EnvChoice} {rest : List EnvChoice} (t0 t1 : Byte)
    (he : s.env = .oracle) (hp : s.cfg.pinDriveCanFail = true) (hs : s.script = c0 :: c :: bad :: rest)
    (hc0 : c0.fails = false) (hc : c.fails = false) (hbad : bad.fails = true) :
    ∃ u, frame t0 t1 s = (.err (.transport .pinDrive), u) ∧
      u.log = [.pin .cs true, .delay Config.settleUs, .xfer t0 t1 c.b0 c.b1, .delay Config.settleUs,
        .pin .cs false] ++ s.log ∧
      u.lines = { s.lines with cs := bad.b0.getLsbD 0 } ∧ u.buf0 = c.b0 ∧ u.buf1 = c.b1 ∧ u.comb = s.comb ∧
      u.cfgtmp = s.cfgtmp ∧ u.chips = (chipsTake t0 t1 s).chips := by
  obtain ⟨v, hframe, hscript, henv, hcfg, hlog, hlines, hwork, hview⟩ := frame_scripted_select t0 t1 he hp hs hc0
  obtain ⟨w, hxfer, hblock, hscript', hchips⟩ := xfer_scripted_ok t0 t1 henv hscript hc
  obtain ⟨u, hdrive, hblock', hchips'⟩ := drive_cs_scripted_err (s := w.emit (.delay Config.settleUs)) true
    (by simp [hblock, henv]) (by simp [hblock, hcfg, hp]) hscript' hbad
  refine ⟨u, by rw [hframe, andThen_ok hxfer, andThen_settle, andThen_err hdrive], ?_⟩
  simp [hblock, hblock', hchips, hchips', hlog, hlines, hwork, Lines.set, (chipsTake_congr t0 t1 hview).1]

/-! ### The instructions of one frame (R72, R115, R121, R124) -/

/-- What a failed frame of an instruction does besides, at whichever of its actions: a configuration write loses the
register it names (R121), any other frame nothing. -/
def frameLoss (i : Instr) (r : Byte) : State → State :=
  match i with
  | .fCfgWrite _ _ => loseRegister r
  | _ => id

theorem frameLoss_of_ne {i : Instr} (h : ∀ q v, i ≠ .fCfgWrite q v) (r : Byte) (s : State) : frameLoss i r s = s := by
  unfold frameLoss
  split
  · exact absurd rfl (h _ _)
  · rfl

/-- What holds of a state unchanged and of one that lost the register holds of what a failed frame leaves. -/
theorem frameLoss_cases (i : Instr) (r : Byte) (s : State) :
    frameLoss i r s = s ∨ frameLoss i r s = loseRegister r s := by
  unfold frameLoss
  split
  · exact .inr rfl
  · exact .inl rfl

theorem frameLoss_same (i : Instr) (r : Byte) (s : State) : SameBlock s (frameLoss i r s) := by
  rcases frameLoss_cases i r s with h | h <;> rw [h]
  · simp [SameBlock]
  · exact (loseRegister_same r s).1

theorem frameLoss_hidden (i : Instr) (r : Byte) (s : State) : SameHidden s (frameLoss i r s) := by
  rcases frameLoss_cases i r s with h | h <;> rw [h]
  · exact ⟨rfl, rfl⟩
  · exact loseRegister_hidden r s

theorem frameLoss_mem (i : Instr) (r : Byte) {s : State} {b : Bank} (hb : Addresses s .dout b) :
    SameMemExcept (regAddr b (regOf r)) s (frameLoss i r s) := by
  rcases frameLoss_cases i r s with h | h <;> rw [h]
  · exact fun _ _ => rfl
  · exact loseRegister_mem r hb

theorem frameLoss_unaddressed (i : Instr) (r : Byte) {s : State} (hb : ∀ b, ¬Addresses s .dout b) :
    frameLoss i r s = s := by
  rcases frameLoss_cases i r s with h | h <;> rw [h]
  exact loseRegister_unaddressed r hb

theorem onError_id {α : Type} (m : Op α) : onError m id = m := by
  funext s
  rcases h : m s with ⟨a | e, t⟩
  · exact onError_ok h
  · exact onError_err h

theorem asUnit_regWrite (r v : Byte) : asUnit (regWrite r v) = asUnit (frame r v) := by
  rw [asUnit, regWrite, andThen_assoc]
  rfl

theorem asUnit_cfgWrite (r v : Byte) : asUnit (cfgWrite r v) = asUnit (onError (frame r v) (loseRegister r)) := by
  funext s
  rcases h : frame r v s with ⟨a | e, t⟩ <;> simp [asUnit, cfgWrite, regWrite, onError, andThen, ret, h]

/-- A port write of a level that has an encoding, to a port in range, is its frame (R115). -/
theorem asUnit_opWritePort {l : Level} {p data : Byte} (hp : 4 ≤ p.toNat ∧ p.toNat ≤ 31)
    (hl : levelData? l = some data) : asUnit (opWritePort l p) = asUnit (frame (0x20 + p) data) := by
  have hrange : portInRange p = true := by simp [portInRange, Config.portMin, Config.portMax, hp]
  rw [opWritePort, checkPort, hrange, require_true, andThen_ret, hl]
  exact asUnit_regWrite _ _

/-- The request byte of a register byte below 0x80 (R113). -/
theorem readRequest_portReg (p : BitVec 5) : readRequest (portReg (p.setWidth 8)) = 0xA0 + p.setWidth 8 := by
  revert p
  decide

theorem readRequest_cfgBase (q : BitVec 3) : readRequest (Config.peCfgBase + q.setWidth 8) = 0x88 ||| q.setWidth 8 := by
  revert q
  decide

theorem runCommand_plainFrame {i : Instr} {m : Op Value} {t0 t1 : Byte} (hi : ∀ q v, i ≠ .fCfgWrite q v)
    (hm : m = asUnit (frame t0 t1)) (s : State) :
    runCommand i m s = runCommand i (asUnit (onError (frame t0 t1) (frameLoss i t0))) s := by
  have hloss : frameLoss i t0 = id := funext (frameLoss_of_ne hi t0)
  rw [hm, hloss, onError_id]

/-- Every instruction of one frame runs as that frame, and what the frame's failure does besides. -/
theorem oneFrame_exec {i : Instr} {t0 t1 : Byte} (h : OneFrame i t0 t1) (s : State) :
    exec i s = runCommand i (asUnit (onError (frame t0 t1) (frameLoss i t0))) s := by
  cases h with
  | writeHigh p hp => exact runCommand_plainFrame (by simp) (asUnit_opWritePort hp rfl) s
  | writeHiz p hp => exact runCommand_plainFrame (by simp) (asUnit_opWritePort hp rfl) s
  | wakeup => exact runCommand_plainFrame (by simp) (asUnit_regWrite _ _) s
  | wakeupIrq => exact runCommand_plainFrame (by simp) (asUnit_regWrite _ _) s
  | portWrite p d hp => exact runCommand_plainFrame (by simp) rfl s
  | portReadReq p hp => exact runCommand_plainFrame (by simp) (by rw [readRequest_portReg]) s
  | nop => exact runCommand_plainFrame (by simp) rfl s
  | cfgReadReq q hq => exact runCommand_plainFrame (by simp) (by rw [readRequest_cfgBase]) s
  | cfgWrite q c hq => exact congrArg (runCommand _ · s) (asUnit_cfgWrite _ _)
  | gcfgWrite => exact runCommand_plainFrame (by simp) rfl s
  | gcfgWriteIrq => exact runCommand_plainFrame (by simp) rfl s

/-- The chips of `t` are those of `s`, but for what a failed frame of `i` loses: only a configuration write loses
anything, and only the register it names of the addressed port expander (R121). -/
structure SameChipsButLoss (i : Instr) (r : Byte) (s t : State) : Prop where
  pend : t.chips.pend = s.chips.pend
  lat : t.chips.lat = s.chips.lat
  plain : (∀ q v, i ≠ .fCfgWrite q v) → t.chips = s.chips
  mem : ∀ b, Addresses s .dout b → SameMemExcept (regAddr b (regOf r)) s t
  unaddressed : (∀ b, ¬Addresses s .dout b) → t.chips = s.chips

theorem frameLoss_sameChipsButLoss (i : Instr) (r : Byte) (s : State) :
    SameChipsButLoss i r s (frameLoss i r s) where
  pend := (frameLoss_hidden i r s).1
  lat := (frameLoss_hidden i r s).2
  plain hi := by rw [frameLoss_of_ne hi]
  mem _ hb := frameLoss_mem i r hb
  unaddressed hb := by rw [frameLoss_unaddressed i r hb]

/-- Only the chips and the address on the select lines matter. -/
theorem SameChipsButLoss.congr {i : Instr} {r : Byte} {s s' t t' : State} (h : SameChipsButLoss i r s t)
    (hs : s'.chips = s.chips) (ha : s'.lines.address = s.lines.address) (ht : t'.chips = t.chips) :
    SameChipsButLoss i r s' t' := by
  obtain ⟨hpend, hlat, hplain, hmem, hun⟩ := h
  constructor <;> simpa only [Addresses, SameMemExcept, hs, ha, ht]

/-- What an instruction of one frame leaves when its frame fails: the error is the response, the block is as the frame
left it, and from idle lines so are the chips, but for what a configuration write loses (R121, R209, R244). -/
theorem oneFrame_failed {i : Instr} {t0 t1 : Byte} {s u : State} {e : ErrKind} (h : OneFrame i t0 t1)
    (hu : frame t0 t1 (s.begin i) = (.err e, u)) :
    ∃ t, exec i s = .next t ∧ t.rsp = some (rspWord (.err e)) ∧ t.log = u.log ∧ t.lines = u.lines ∧
      SameWorking u t ∧ t.seq = .idle ∧ (LinesIdle s → SameChipsButLoss i t0 u t) := by
  have hrun : asUnit (onError (frame t0 t1) (frameLoss i t0)) (s.begin i) = (.err e, frameLoss i t0 u) :=
    andThen_err (onError_err hu)
  obtain ⟨hsettled, -⟩ := settleChips_same s (frameLoss i t0 u)
  have hlost := frameLoss_same i t0 u
  refine ⟨_, (oneFrame_exec h s).trans (runCommand_eq hrun), rfl, ?_⟩
  simp only [complete_log, complete_lines, complete_buf0, complete_buf1, complete_comb, complete_cfgtmp,
    complete_seq, SameWorking, hsettled, hlost, and_self, true_and]
  intro hidle
  rw [settleChips_still (.inl (.inr hidle))]
  exact (frameLoss_sameChipsButLoss i t0 u).congr rfl rfl rfl

/-! ### The three points of failure -/

section Failures

variable {i : Instr} {t0 t1 : Byte} {s : State} {c0 c bad : EnvChoice} {rest : List EnvChoice}

/-- `drive(CS, 0)` fails. -/
theorem oneFrame_fails_at_start (h : OneFrame i t0 t1) (he : s.env = .oracle) (hp : s.cfg.pinDriveCanFail = true)
    (hbad : bad.fails = true) (hs : s.script = bad :: rest) :
    ∃ t, exec i s = .next t ∧ t.rsp = some 0x7000 ∧ t.trace = s.trace ++ [.pin .cs false] ∧
      t.lines = { s.lines with cs := bad.b0.getLsbD 0 } ∧ SameWorking s t ∧ t.seq = .idle ∧
      (LinesIdle s → SameChipsButLoss i t0 s t) := by
  obtain ⟨u, hu, hlog, hlines, hwork, hchips⟩ := frame_fails_at_start (s := s.begin i) t0 t1 he hp hs hbad
  obtain ⟨t, ht, hrsp, htlog, htlines, htwork, hseq, hlost⟩ := oneFrame_failed h hu
  refine ⟨t, ht, hrsp, by simp [State.trace, htlog, hlog], htlines.trans hlines, ?_, hseq, fun hidle => ?_⟩
  · simpa [SameWorking, htwork] using hwork
  · exact (hlost hidle).congr hchips.symm (by rw [hlines]; rfl) rfl

/-- The exchange fails. -/
theorem oneFrame_fails_at_exchange (h : OneFrame i t0 t1) (he : s.env = .oracle) (hp : s.cfg.pinDriveCanFail = true)
    (hc0 : c0.fails = false) (hbad : bad.fails = true) (hs : s.script = c0 :: bad :: rest) :
    ∃ t, exec i s = .next t ∧ t.rsp = some 0x6000 ∧
      t.trace = s.trace ++ [.pin .cs false, .delay Config.settleUs, .xferFail t0 t1] ∧
      t.lines = { s.lines with cs := false } ∧ t.buf0 = bad.b0 ∧ t.buf1 = bad.b1 ∧ t.comb = s.comb ∧
      t.cfgtmp = s.cfgtmp ∧ t.seq = .idle ∧ (LinesIdle s → SameChipsButLoss i t0 (chipsMiss t0 s) t) := by
  obtain ⟨u, hu, hlog, hlines, hb0, hb1, hcomb, hcfgtmp, hchips⟩ :=
    frame_fails_at_exchange (s := s.begin i) t0 t1 he hp hs hc0 hbad
  obtain ⟨t, ht, hrsp, htlog, htlines, ⟨htb0, htb1, htcomb, htcfgtmp⟩, hseq, hlost⟩ := oneFrame_failed h hu
  obtain ⟨⟨-, hmiss, -⟩, -⟩ := chipsMiss_same t0 s
  refine ⟨t, ht, hrsp, by simp [State.trace, htlog, hlog], htlines.trans hlines, htb0.trans hb0, htb1.trans hb1,
    htcomb.trans hcomb, htcfgtmp.trans hcfgtmp, hseq, fun hidle => ?_⟩
  have hview : SameChipView s (s.begin i) := by simp [SameChipView]
  exact (hlost hidle).congr (by rw [hchips, chipsMiss_congr t0 hview]) (by rw [hlines, hmiss]; rfl) rfl

/-- `drive(CS, 1)` fails. -/
theorem oneFrame_fails_at_end (h : OneFrame i t0 t1) (he : s.env = .oracle) (hp : s.cfg.pinDriveCanFail = true)
    (hc0 : c0.fails = false) (hc : c.fails = false) (hbad : bad.fails = true) (hs : s.script = c0 :: c :: bad :: rest) :
    ∃ t, exec i s = .next t ∧ t.rsp = some 0x7000 ∧
      t.trace = s.trace ++ [.pin .cs false, .delay Config.settleUs, .xfer t0 t1 c.b0 c.b1, .delay Config.settleUs,
        .pin .cs true] ∧
      t.lines = { s.lines with cs := bad.b0.getLsbD 0 } ∧ t.buf0 = c.b0 ∧ t.buf1 = c.b1 ∧ t.comb = s.comb ∧
      t.cfgtmp = s.cfgtmp ∧ t.seq = .idle ∧ (LinesIdle s → SameChipsButLoss i t0 (chipsTake t0 t1 s) t) := by
  obtain ⟨u, hu, hlog, hlines, hb0, hb1, hcomb, hcfgtmp, hchips⟩ :=
    frame_fails_at_end (s := s.begin i) t0 t1 he hp hs hc0 hc hbad
  obtain ⟨t, ht, hrsp, htlog, htlines, ⟨htb0, htb1, htcomb, htcfgtmp⟩, hseq, hlost⟩ := oneFrame_failed h hu
  obtain ⟨⟨-, htake, -⟩, -⟩ := chipsTake_same t0 t1 s
  refine ⟨t, ht, hrsp, by simp [State.trace, htlog, hlog], htlines.trans hlines, htb0.trans hb0, htb1.trans hb1,
    htcomb.trans hcomb, htcfgtmp.trans hcfgtmp, hseq, fun hidle => ?_⟩
  have hview : SameChipView s (s.begin i) := by simp [SameChipView]
  exact (hlost hidle).congr (by rw [hchips, (chipsTake_congr t0 t1 hview).1]) (by rw [hlines, htake]; rfl) rfl

end Failures

/-- Settles O47: the frame fails at one of three points, the instruction's chips are those of the failed frame but for
what a configuration write loses, and the addressed chip has seen nothing, missed the exchange or taken it. -/
theorem failedExchangeLeavesCsLow : Obligations.FailedExchangeLeavesCsLow := by
  intro i t0 t1 s c0 c bad rest h he hp hc0 hbad
  refine ⟨fun hs => ?start, fun hs => ?exchange, fun hc hs => ?finish⟩
  case start =>
    obtain ⟨t, ht, hrsp, htrace, hlines, hwork, hseq, hlost⟩ := oneFrame_fails_at_start h he hp hbad hs
    refine ⟨t, ht, hrsp, htrace, hlines, hwork, hseq, fun hidle => ?_⟩
    obtain ⟨hpend, hlat, hplain, hmem, hun⟩ := hlost hidle
    exact ⟨⟨hpend, hlat⟩, hplain, hmem, hun⟩
  case exchange =>
    obtain ⟨t, ht, hrsp, htrace, hlines, hb0, hb1, hcomb, hcfgtmp, hseq, hlost⟩ :=
      oneFrame_fails_at_exchange h he hp hc0 hbad hs
    refine ⟨t, ht, hrsp, htrace, hlines, hb0, hb1, hcomb, hcfgtmp, hseq, fun hidle => ?_⟩
    obtain ⟨hpend, hlat, hplain, hmem, hun⟩ := hlost hidle
    obtain ⟨⟨-, hmiss, -⟩, -⟩ := chipsMiss_same t0 s
    obtain ⟨hregs, hlats⟩ := chipsMiss_keeps t0 s
    simp only [Addresses, SameMemExcept, hmiss, hregs] at hmem hun
    refine ⟨hlat.trans hlats, fun hi => by rw [hplain hi, hregs], fun hw => by rw [hpend, chipsMiss_write s hw],
      fun b hb => ⟨hmem b hb, fun b' hb' => ?_⟩, fun hb => by rw [hun hb, chipsMiss_unaddressed t0 hb]⟩
    rw [hpend, chipsMiss_pend_other t0 hb hb']
  case finish =>
    obtain ⟨t, ht, hrsp, htrace, hlines, hb0, hb1, hcomb, hcfgtmp, hseq, hlost⟩ :=
      oneFrame_fails_at_end h he hp hc0 hc hbad hs
    refine ⟨t, ht, hrsp, htrace, hlines, hb0, hb1, hcomb, hcfgtmp, hseq, fun hidle hwf => ?_⟩
    obtain ⟨hpend, hlat, hplain, hmem, hun⟩ := hlost hidle
    obtain ⟨⟨-, htake, -⟩, -⟩ := chipsTake_same t0 t1 s
    simp only [Addresses, SameMemExcept, htake] at hmem hun
    refine ⟨hlat.trans (chipsTake_lat t0 t1 s), fun b hb => ⟨fun x hx => ?_, fun hw hz hi => ?_⟩,
      fun hb => by rw [hun hb, chipsTake_unaddressed t0 t1 hb]⟩
    · rw [hmem b hb x hx, chipsTake_mem t0 t1 hb x hx]
    · rw [hplain hi, chipsTake_write t1 hb hw hz]
      exact ⟨reg_setReg_same b (regOf t0) t1 hwf, rfl⟩

end Sys2Proof.Machine
end

section
/-! SUPPORT. The statements of the family state: what reset leaves (O49, O50), what every step and every instruction
keeps (O51, O53), what no instruction reads (O59), and what a read request captures (O22). Every instruction is built
from the interface primitives; a fact of the primitives is carried to all instructions by one induction. -/

namespace Sys2Proof.Machine

/-! ### Operations built from the primitives (R11 to R14) -/

/-- The operations that sequencing makes of the interface primitives, the writes of `COMB` and `CFGTMP`, the parameters,
and the errors an operation may raise (R205: never `NotPresent`). -/
inductive FromPrimitives : {α : Type} → Op α → Prop where
  | ret {α : Type} (a : α) : FromPrimitives (ret a)
  | raise {α : Type} (e : ErrKind) (h : e ≠ .notPresent) : FromPrimitives (raise (α := α) e)
  | andThen {α β : Type} {m : Op α} {k : α → Op β} (hm : FromPrimitives m) (hk : ∀ a, FromPrimitives (k a)) :
      FromPrimitives (andThen m k)
  | losing {α : Type} {m : Op α} (r : Byte) (hm : FromPrimitives m) : FromPrimitives (onError m (loseRegister r))
  | drive (x : Line) (b : Bool) : FromPrimitives (drive x b)
  | settle : FromPrimitives settle
  | xfer (t0 t1 : Byte) : FromPrimitives (xfer t0 t1)
  | writeComb (c : Word) : FromPrimitives (writeComb c)
  | writeCfgtmp (v : Byte) : FromPrimitives (writeCfgtmp v)
  | readCfg : FromPrimitives readCfg

namespace FromPrimitives

/-- An operation whose value is only repackaged. -/
theorem map {α β : Type} {m : Op α} (hm : FromPrimitives m) (f : α → β) :
    FromPrimitives (Machine.andThen m fun a => Machine.ret (f a)) := hm.andThen fun a => .ret (f a)

theorem asUnit {α : Type} {m : Op α} (hm : FromPrimitives m) : FromPrimitives (Machine.asUnit m) :=
  hm.map fun _ => Value.unit

theorem require (ok : Bool) {e : ErrKind} (h : e ≠ .notPresent) : FromPrimitives (Machine.require ok e) := by
  cases ok
  · exact .raise e h
  · exact .ret ()

theorem forEach {α : Type} {f : α → Op Unit} (hf : ∀ x, FromPrimitives (f x)) :
    ∀ xs : List α, FromPrimitives (Machine.forEach xs f)
  | [] => .ret ()
  | x :: xs => (hf x).andThen fun _ => forEach hf xs

/-! The shared sequences (R102, R111 to R113, R121, R141) -/

theorem frame (t0 t1 : Byte) : FromPrimitives (frame t0 t1) :=
  (drive .cs false).andThen fun _ => settle.andThen fun _ => (xfer t0 t1).andThen fun r =>
    settle.andThen fun _ => (drive .cs true).andThen fun _ => settle.andThen fun _ => .ret r

theorem regWrite (r v : Byte) : FromPrimitives (regWrite r v) := (frame r v).map fun _ => ()

theorem cfgWrite (r v : Byte) : FromPrimitives (cfgWrite r v) := (regWrite r v).losing r

theorem regRead (r : Byte) : FromPrimitives (regRead r) :=
  (frame _ _).andThen fun _ => (frame _ _).andThen fun resp => readCfg.map fun cfg => respByte cfg resp

theorem loadPulse : FromPrimitives loadPulse :=
  (drive .load false).andThen fun _ => settle.andThen fun _ => drive .load true

theorem readFrame : FromPrimitives readFrame :=
  loadPulse.andThen fun _ => (frame _ _).andThen fun _ => (writeComb _).andThen fun _ => readCfg.andThen fun _ =>
    (require _ (by decide)).andThen fun _ => (require _ (by decide)).map fun _ => _

theorem selectAddress (a : ChipAddr) : FromPrimitives (selectAddress a) :=
  (drive _ _).andThen fun _ => (drive _ _).andThen fun _ => (drive _ _).andThen fun _ => (drive _ _).andThen fun _ =>
    settle

/-! The operations of the components (R102, R115, R116, R121 to R124, R146) -/

theorem opSelect (d : Direction) (b : Bank) : FromPrimitives (opSelect d b) := selectAddress (chipAddr d b)

theorem checkPort (p : Byte) : FromPrimitives (checkPort p) := require _ (by decide)

theorem opWritePort (l : Level) (p : Byte) : FromPrimitives (opWritePort l p) := by
  refine (checkPort p).andThen fun _ => ?_
  cases levelData? l with
  | none => exact .raise .unsupportedLevel (by decide)
  | some data => exact regWrite (portReg p) data

theorem opReadPort (p : Byte) : FromPrimitives (opReadPort p) :=
  (checkPort p).andThen fun _ => (regRead _).map levelOfByte

theorem opCfgBits (bits : BitVec 2) (p : Byte) : FromPrimitives (opCfgBits bits p) :=
  (checkPort p).andThen fun _ => (regRead _).andThen fun _ => (writeCfgtmp _).andThen fun _ =>
    (writeCfgtmp _).andThen fun _ => cfgWrite _ _

theorem opCfgOutput (l : Level) (p : Byte) : FromPrimitives (opCfgOutput l p) :=
  (opWritePort l p).andThen fun _ => opCfgBits _ p

theorem opCfgInput (pullup : Bool) (p : Byte) : FromPrimitives (opCfgInput pullup p) := opCfgBits _ p

theorem opWakeup (enableIrq : Bool) : FromPrimitives (opWakeup enableIrq) := regWrite _ _

theorem opReadBit (index : Byte) : FromPrimitives (opReadBit index) :=
  (require _ (by decide)).andThen fun _ => readFrame.map fun c => c.getLsbD index.toNat

/-! The operation layer (R181 to R188) -/

theorem locate (l : Byte) {e : ErrKind} (h : e ≠ .notPresent) : FromPrimitives (locate l e) := by
  refine (require _ h).andThen fun _ => ?_
  cases bankOfOrdinal? (logicalBankOrdinal l) with
  | none => exact .raise e h
  | some b => exact .ret (b, logicalLocal l)

theorem initBank (b : Bank) : FromPrimitives (initBank b) :=
  (opSelect .dout b).andThen fun _ => (forEach (opCfgOutput .hiz) _).andThen fun _ =>
    (forEach (opCfgInput true) _).andThen fun _ => (forEach (opCfgInput false) _).andThen fun _ =>
      (forEach (opCfgInput true) _).andThen fun _ => readCfg.andThen fun cfg => opWakeup cfg.initEnableIrq

theorem opInit : FromPrimitives opInit := forEach initBank allBanks

theorem opSetOutput (l : Level) (a : Byte) : FromPrimitives (opSetOutput l a) :=
  (locate a (by decide)).andThen fun bk => (opSelect .dout bk.1).andThen fun _ => opWritePort l _

theorem readTwo (p q : Byte) : FromPrimitives (readTwo p q) :=
  (opReadPort p).andThen fun l => (opReadPort q).map fun m => (l, m)

theorem readSupply : FromPrimitives readSupply :=
  (readTwo 20 21).andThen fun ls => readCfg.map fun cfg => outSupply cfg.outSupply ls.1 ls.2

theorem opGetOutputState (a : Byte) : FromPrimitives (opGetOutputState a) :=
  (locate a (by decide)).andThen fun bk => (opSelect .dout bk.1).andThen fun _ => readSupply.andThen fun _ =>
    (require _ (by decide)).andThen fun _ => (opReadPort _).map lineOfLevel

theorem opGetOutputSupply (b : Bank) : FromPrimitives (opGetOutputSupply b) :=
  (opSelect .dout b).andThen fun _ => readSupply.map outSupplyState

theorem opGetOutputThermal (b : Bank) : FromPrimitives (opGetOutputThermal b) :=
  (opSelect .dout b).andThen fun _ => (readTwo 22 23).andThen fun ls =>
    readCfg.map fun cfg => outThermal cfg.outThermal ls.1 ls.2

theorem opGetInput (a : Byte) : FromPrimitives (opGetInput a) :=
  (locate a (by decide)).andThen fun bk => (opSelect .din bk.1).andThen fun _ => (opReadBit _).map levelOfBit

theorem opGetInputSupply (b : Bank) : FromPrimitives (opGetInputSupply b) :=
  (opSelect .din b).andThen fun _ => (opReadBit _).map inSupply

theorem opGetInputThermal (b : Bank) : FromPrimitives (opGetInputThermal b) :=
  (opSelect .din b).andThen fun _ => (opReadBit _).map inThermal

end FromPrimitives

/-- Every instruction runs, as one command, an operation built from the primitives. -/
theorem exec_fromPrimitives (i : Instr) :
    ∃ m : Op Value, FromPrimitives m ∧ ∀ s, exec i s = runCommand i m s := by
  cases i with
  | init => exact ⟨_, FromPrimitives.opInit.asUnit, fun _ => rfl⟩
  | setOutput l a => exact ⟨_, (FromPrimitives.opSetOutput l a).asUnit, fun _ => rfl⟩
  | getOutputState a => exact ⟨_, (FromPrimitives.opGetOutputState a).map Value.line, fun _ => rfl⟩
  | getOutputSupply b => exact ⟨_, (FromPrimitives.opGetOutputSupply b).map Value.supply, fun _ => rfl⟩
  | getOutputThermal b => exact ⟨_, (FromPrimitives.opGetOutputThermal b).map Value.thermal, fun _ => rfl⟩
  | getInput a => exact ⟨_, (FromPrimitives.opGetInput a).map Value.level, fun _ => rfl⟩
  | getInputSupply b => exact ⟨_, (FromPrimitives.opGetInputSupply b).map Value.supply, fun _ => rfl⟩
  | getInputThermal b => exact ⟨_, (FromPrimitives.opGetInputThermal b).map Value.thermal, fun _ => rfl⟩
  | select d b => exact ⟨_, (FromPrimitives.opSelect d b).asUnit, fun _ => rfl⟩
  | peWritePort l p => exact ⟨_, (FromPrimitives.opWritePort l p).asUnit, fun _ => rfl⟩
  | peReadPort p => exact ⟨_, (FromPrimitives.opReadPort p).map Value.level, fun _ => rfl⟩
  | peCfgOutput l p => exact ⟨_, (FromPrimitives.opCfgOutput l p).asUnit, fun _ => rfl⟩
  | peCfgInput u p => exact ⟨_, (FromPrimitives.opCfgInput u p).asUnit, fun _ => rfl⟩
  | peCfgBits b p => exact ⟨_, (FromPrimitives.opCfgBits b p).asUnit, fun _ => rfl⟩
  | peWakeup u => exact ⟨_, (FromPrimitives.opWakeup u).asUnit, fun _ => rfl⟩
  | diReadBit n => exact ⟨_, (FromPrimitives.opReadBit n).map Value.bit, fun _ => rfl⟩
  | fPortWrite p d => exact ⟨_, (FromPrimitives.frame _ _).asUnit, fun _ => rfl⟩
  | fPortReadReq p => exact ⟨_, (FromPrimitives.frame _ _).asUnit, fun _ => rfl⟩
  | fNop => exact ⟨_, (FromPrimitives.frame _ _).asUnit, fun _ => rfl⟩
  | fCfgReadReq q => exact ⟨_, (FromPrimitives.frame _ _).asUnit, fun _ => rfl⟩
  | fCfgWrite q c => exact ⟨_, (FromPrimitives.cfgWrite _ _).asUnit, fun _ => rfl⟩
  | fGcfgWrite u => exact ⟨_, (FromPrimitives.frame _ _).asUnit, fun _ => rfl⟩
  | direq16 => exact ⟨_, FromPrimitives.readFrame.asUnit, fun _ => rfl⟩
  | selOut1 => exact ⟨_, (FromPrimitives.opSelect .dout .b1).asUnit, fun _ => rfl⟩
  | selOut2 => exact ⟨_, (FromPrimitives.opSelect .dout .b2).asUnit, fun _ => rfl⟩
  | selOut3 => exact ⟨_, (FromPrimitives.opSelect .dout .b3).asUnit, fun _ => rfl⟩
  | selOut4 => exact ⟨_, (FromPrimitives.opSelect .dout .b4).asUnit, fun _ => rfl⟩
  | selOut5 => exact ⟨_, (FromPrimitives.opSelect .dout .b5).asUnit, fun _ => rfl⟩
  | selOut6 => exact ⟨_, (FromPrimitives.opSelect .dout .b6).asUnit, fun _ => rfl⟩
  | selIn1 => exact ⟨_, (FromPrimitives.opSelect .din .b1).asUnit, fun _ => rfl⟩
  | selIn2 => exact ⟨_, (FromPrimitives.opSelect .din .b2).asUnit, fun _ => rfl⟩
  | selIn3 => exact ⟨_, (FromPrimitives.opSelect .din .b3).asUnit, fun _ => rfl⟩
  | selIn4 => exact ⟨_, (FromPrimitives.opSelect .din .b4).asUnit, fun _ => rfl⟩
  | selIn5 => exact ⟨_, (FromPrimitives.opSelect .din .b5).asUnit, fun _ => rfl⟩
  | selIn6 => exact ⟨_, (FromPrimitives.opSelect .din .b6).asUnit, fun _ => rfl⟩

/-- What an instruction's next state is: what an operation built from the primitives left, settled and completed. -/
theorem exec_next {i : Instr} {s t : State} (h : exec i s = .next t) :
    ∃ (m : Op Value) (r : Res Value) (u : State), FromPrimitives m ∧ m (s.begin i) = (r, u) ∧
      t = (settleChips s u).complete (rspWord r) := by
  obtain ⟨m, hm, hexec⟩ := exec_fromPrimitives i
  rw [hexec, runCommand_eq (r := (m (s.begin i)).1) (u := (m (s.begin i)).2) rfl] at h
  exact ⟨m, _, _, hm, rfl, (Host.Outcome.next.inj h).symm⟩

/-! ### What the primitives keep, every operation keeps -/

/-- `P` is kept by an operation, whether it succeeds or not. -/
abbrev Keeps {α : Type} (P : State → Prop) (m : Op α) : Prop := Triple P m (fun _ => P) (fun _ => P)

/-- `P` is kept by everything the primitives do. -/
structure KeptByPrimitives (P : State → Prop) : Prop where
  drive : ∀ x b, Keeps P (drive x b)
  settle : Keeps P settle
  xfer : ∀ t0 t1, Keeps P (xfer t0 t1)
  writeComb : ∀ c, Keeps P (writeComb c)
  writeCfgtmp : ∀ v, Keeps P (writeCfgtmp v)
  loseRegister : ∀ r s, P s → P (loseRegister r s)

theorem KeptByPrimitives.keeps {P : State → Prop} (hP : KeptByPrimitives P) {α : Type} {m : Op α}
    (hm : FromPrimitives m) : Keeps P m := by
  induction hm with
  | ret a => exact triple_ret fun _ h => h
  | raise e he => exact triple_raise fun _ h => h
  | andThen _ _ ihm ihk => exact triple_andThen ihm ihk
  | losing r _ ih => exact triple_onError ih fun _ s h => hP.loseRegister r s h
  | drive x b => exact hP.drive x b
  | settle => exact hP.settle
  | xfer t0 t1 => exact hP.xfer t0 t1
  | writeComb c => exact hP.writeComb c
  | writeCfgtmp v => exact hP.writeCfgtmp v
  | readCfg => exact fun _ h => h

/-- A kept property holds of the state an operation leaves. -/
theorem Keeps.after {P : State → Prop} {α : Type} {m : Op α} (h : Keeps P m) {s u : State} {r : Res α} (hs : P s)
    (hm : m s = (r, u)) : P u := by
  have hu := h s hs
  rw [hm] at hu
  cases r <;> exact hu

/-- No operation raises `NotPresent` (R205). -/
theorem FromPrimitives.never_notPresent {α : Type} {m : Op α} (hm : FromPrimitives m) :
    Triple (fun _ => True) m (fun _ _ => True) (fun e _ => e ≠ .notPresent) := by
  induction hm with
  | ret a => exact triple_ret fun _ h => h
  | raise e he => exact triple_raise fun _ _ => he
  | andThen _ _ ihm ihk => exact triple_andThen ihm ihk
  | losing r _ ih => exact triple_onError ih fun _ _ h => h
  | drive x b =>
    intro s _
    rcases drive_cases x b s with ⟨t, ht, -⟩ | ⟨d, t, ht, -⟩ <;> simp [ht]
  | xfer t0 t1 =>
    intro s _
    rcases xfer_cases t0 t1 s with ⟨r0, r1, t, ht, -⟩ | ⟨d0, d1, t, ht, -⟩ <;> simp [ht]
  | settle => exact fun _ h => h
  | writeComb c => exact fun _ h => h
  | writeCfgtmp v => exact fun _ h => h
  | readCfg => exact fun _ h => h

/-! ### The invariant (R24, R85, R205, R211) -/

/-- The primitives keep the canonical form of the memory. -/
theorem keptByPrimitives_memWf : KeptByPrimitives fun s => memWf s.chips.regs = true where
  drive x b s h := by
    have hwf : memWf ((driveChoice x b s).2.emit (.pin x b)).chips.regs = true := by
      rw [emit_chips, (driveChoice_same x b s).2]
      exact h
    rcases drive_cases x b s with ⟨t, ht, -, rfl⟩ | ⟨d, t, ht, -, rfl, -⟩ <;> rw [ht]
    · exact chipsSeeDrive_wf x b _ hwf
    · exact chipsSeeFailedDrive_wf x _ hwf
  settle _ h := h
  xfer t0 t1 s h := by
    have hwf (e : Event) : memWf ((xferChoice t0 t1 s).2.emit e).chips.regs = true := by
      rw [emit_chips, (xferChoice_same t0 t1 s).2]
      exact h
    rcases xfer_cases t0 t1 s with ⟨r0, r1, t, ht, -, rfl, -⟩ | ⟨d0, d1, t, ht, -, rfl, -⟩ <;> rw [ht]
    · exact chipsTake_wf t0 t1 _ (hwf _)
    · exact chipsMiss_wf t0 _ (hwf _)
  writeComb _ _ h := h
  writeCfgtmp _ _ h := h
  loseRegister := loseRegister_wf

/-- The word of every result an operation returns has the form of R85 and R86. -/
theorem rspOk_rspWord {r : Res Value} (h : r ≠ .err .notPresent) : rspOk (rspWord r) = true := by
  cases r with
  | ok v =>
    cases v with
    | unit => rfl
    | bit b => cases b <;> rfl
    | level l => cases l <;> rfl
    | line l => cases l <;> rfl
    | supply s => cases s <;> rfl
    | thermal t => cases t <;> rfl
  | err e =>
    cases e with
    | notPresent => exact absurd rfl h
    | transport c => cases c <;> rfl
    | illegalInput => rfl
    | illegalOutput => rfl
    | unsupportedLevel => rfl
    | diParity => rfl

/-- An instruction leaves the invariant behind wherever the memory was canonical. -/
theorem exec_inv {i : Instr} {s t : State} (hwf : memWf s.chips.regs = true) (h : exec i s = .next t) : Inv t := by
  obtain ⟨m, r, u, hm, hrun, rfl⟩ := exec_next h
  have hu : memWf u.chips.regs = true := (keptByPrimitives_memWf.keeps hm).after (s := s.begin i) hwf hrun
  have hr : r ≠ .err .notPresent := by
    rintro rfl
    have hne := hm.never_notPresent (s.begin i) trivial
    rw [hrun] at hne
    exact hne rfl
  refine ⟨settleChips_wf s u hu, rfl, fun w hw => ?_⟩
  rw [← Option.some.inj hw]
  exact rspOk_rspWord hr

/-- The two ways a step has a next state: nothing is presented and nothing happens, or the presented word is taken and
its instruction run (R6, R24). -/
theorem step_next {s t : State} (h : step s = .next t) :
    (s.port = none ∧ t = s) ∨ ∃ i, exec i s.accept = .next t := by
  unfold step at h
  split at h
  · next hport => exact .inl ⟨hport, (Host.Outcome.next.inj h).symm⟩
  · split at h
    · cases h
    · split at h
      · cases h
      · next i _ => exact .inr ⟨i, h⟩

/-- Settles O51: a step changes nothing or runs an instruction, which leaves the invariant behind. -/
theorem stepKeepsTheInvariant : Obligations.StepKeepsTheInvariant := by
  intro s t hs hstep
  rcases step_next hstep with ⟨-, rfl⟩ | ⟨i, hexec⟩
  · exact hs
  · exact exec_inv (s := s.accept) hs.1 hexec

/-- Settles O50: memory after reset is canonical, the sequencer idle, no response stands. -/
theorem resetSatisfiesTheInvariant : Obligations.ResetSatisfiesTheInvariant :=
  ⟨memWf_reset, rfl, fun _ hw => by cases hw⟩

/-- Settles O49, bank by bank for the low-power state. -/
theorem resetIsIdleAndUnwoken : Obligations.ResetIsIdleAndUnwoken :=
  ⟨rfl, rfl, rfl, rfl, fun b => by cases b <;> rfl, ⟨rfl, rfl⟩, fun _ => rfl, rfl⟩

/-! ### The world outside the block and the trace (R34, R50) -/

/-- The world is as it was in `s` and the trace is that of `s` or a longer one. -/
def GrownFrom (s t : State) : Prop := SameWorld s t ∧ s.log <:+ t.log

/-- What a primitive leaves: the block of a state grown from `s`. -/
theorem GrownFrom.sameBlock {s t u : State} (h : GrownFrom s t) (hu : SameBlock t u) : GrownFrom s u := by
  obtain ⟨hcfg, -, -, -, -, -, -, hport, -, hlog, henv, hpin, hsensed⟩ := hu
  simpa only [GrownFrom, SameWorld, hcfg, hport, hlog, henv, hpin, hsensed] using h

theorem GrownFrom.emit {s t : State} (h : GrownFrom s t) (e : Event) : GrownFrom s (t.emit e) :=
  ⟨h.1, h.2.trans (List.suffix_cons e t.log)⟩

/-- The primitives leave the world alone and only append events. -/
theorem keptByPrimitives_grownFrom (s : State) : KeptByPrimitives (GrownFrom s) where
  drive x b t h := by
    rcases drive_cases x b t with ⟨u, hu, hb, -⟩ | ⟨d, u, hu, hb, -⟩ <;> rw [hu]
    · exact GrownFrom.sameBlock (t := (t.emit (.pin x b)).setLine x b) (h.emit _) hb
    · exact GrownFrom.sameBlock (t := (t.emit (.pin x b)).setLine x d) (h.emit _) hb
  settle _ h := h.emit _
  xfer t0 t1 t h := by
    rcases xfer_cases t0 t1 t with ⟨r0, r1, u, hu, hb, -⟩ | ⟨d0, d1, u, hu, hb, -⟩ <;> rw [hu]
    · exact GrownFrom.sameBlock (t := (t.emit (.xfer t0 t1 r0 r1)).setBuf r0 r1) (h.emit _) hb
    · exact GrownFrom.sameBlock (t := (t.emit (.xferFail t0 t1)).setBuf d0 d1) (h.emit _) hb
  writeComb _ _ h := h
  writeCfgtmp _ _ h := h
  loseRegister r t h := h.sameBlock (loseRegister_same r t).1

theorem exec_grownFrom {i : Instr} {s t : State} (h : exec i s = .next t) : GrownFrom s t := by
  obtain ⟨m, r, u, hm, hrun, rfl⟩ := exec_next h
  have hbegin : GrownFrom s (s.begin i) := ⟨⟨rfl, rfl, rfl, rfl, rfl⟩, List.suffix_refl _⟩
  have hu : GrownFrom s u := ((keptByPrimitives_grownFrom s).keeps hm).after hbegin hrun
  have hsettled : GrownFrom s (settleChips s u) := hu.sameBlock (settleChips_same s u).1
  exact hsettled

/-- Settles O53: the trace, newest event first, has the old one as its end. -/
theorem instructionsLeaveTheWorldAlone : Obligations.InstructionsLeaveTheWorldAlone := by
  intro i s t hexec
  obtain ⟨hworld, ev, hev⟩ := exec_grownFrom hexec
  exact ⟨hworld, ev.reverse, by simp [State.trace, ← hev]⟩

/-! ### The working registers and the last response (R20, R22, R23) -/

/-- The state with nothing in the working registers and no response. -/
def State.cleared (s : State) : State := { s with buf0 := 0, buf1 := 0, comb := 0, cfgtmp := 0, rsp := none }

@[simp] theorem cleared_cfg (s : State) : s.cleared.cfg = s.cfg := rfl
@[simp] theorem cleared_lines (s : State) : s.cleared.lines = s.lines := rfl
@[simp] theorem cleared_seq (s : State) : s.cleared.seq = s.seq := rfl
@[simp] theorem cleared_chips (s : State) : s.cleared.chips = s.chips := rfl
@[simp] theorem cleared_env (s : State) : s.cleared.env = s.env := rfl
@[simp] theorem cleared_script (s : State) : s.cleared.script = s.script := rfl

theorem cleared_emit (s : State) (e : Event) : s.cleared.emit e = (s.emit e).cleared := rfl

/-- A state update that neither reads nor writes the working registers and the response. -/
def CommutesWithClearing (f : State → State) : Prop := ∀ s, f s.cleared = (f s).cleared

/-- An operation that reads neither the working registers nor the response: on the cleared state it has the same result
and leaves the same, but for them. -/
def ReadsNoWorking {α : Type} (m : Op α) : Prop :=
  ∀ s, (m s.cleared).1 = (m s).1 ∧ (m s.cleared).2.cleared = (m s).2.cleared

/-- Such an operation does the same from states that clear to the same. -/
theorem ReadsNoWorking.congr {α : Type} {m : Op α} (hm : ReadsNoWorking m) {s s' : State}
    (h : s'.cleared = s.cleared) : (m s').1 = (m s).1 ∧ (m s').2.cleared = (m s).2.cleared := by
  have hs := hm s
  rw [← h] at hs
  exact ⟨(hm s').1.symm.trans hs.1, (hm s').2.symm.trans hs.2⟩

theorem readsNoWorking_andThen {α β : Type} {m : Op α} {k : α → Op β} (hm : ReadsNoWorking m)
    (hk : ∀ a, ReadsNoWorking (k a)) : ReadsNoWorking (andThen m k) := by
  intro s
  obtain ⟨hres, hleft⟩ := hm s
  rcases hc : m s.cleared with ⟨a | e, u'⟩ <;> rcases h : m s with ⟨b | f, u⟩ <;> rw [hc, h] at hres hleft
  · obtain rfl := Res.ok.inj hres
    rw [andThen_ok hc, andThen_ok h]
    exact (hk a).congr hleft
  · cases hres
  · cases hres
  · rw [andThen_err hc, andThen_err h]
    exact ⟨congrArg Res.err (Res.err.inj hres), hleft⟩

theorem readsNoWorking_onError {α : Type} {m : Op α} {f : State → State} (hm : ReadsNoWorking m)
    (hf : CommutesWithClearing f) : ReadsNoWorking (onError m f) := by
  intro s
  obtain ⟨hres, hleft⟩ := hm s
  rcases hc : m s.cleared with ⟨a | e, u'⟩ <;> rcases h : m s with ⟨b | e', u⟩ <;> rw [hc, h] at hres hleft
  · rw [onError_ok hc, onError_ok h]
    exact ⟨hres, hleft⟩
  · cases hres
  · cases hres
  · rw [onError_err hc, onError_err h]
    refine ⟨hres, ?_⟩
    rw [← hf u', ← hf u]
    exact congrArg f hleft

/-! ### What the environment and the chips do not read (R60 to R65) -/

theorem consult_cleared (act : EnvAction) (s : State) :
    consult act s.cleared = ((consult act s).1, (consult act s).2.cleared) := by
  unfold consult
  rw [cleared_script]
  cases s.script <;> rfl

theorem driveChoice_cleared (x : Line) (b : Bool) (s : State) :
    driveChoice x b s.cleared = ((driveChoice x b s).1, (driveChoice x b s).2.cleared) := by
  unfold driveChoice
  rw [cleared_env, cleared_cfg]
  split
  · exact consult_cleared _ s
  · rfl

theorem referenceAnswer_cleared (s : State) : referenceAnswer s.cleared = referenceAnswer s := rfl

theorem xferChoice_cleared (t0 t1 : Byte) (s : State) :
    xferChoice t0 t1 s.cleared = ((xferChoice t0 t1 s).1, (xferChoice t0 t1 s).2.cleared) := by
  unfold xferChoice
  rw [cleared_env]
  split
  · exact consult_cleared _ s
  · exact congrArg (·, s.cleared) (referenceAnswer_cleared s)

theorem chipsSeeDrive_cleared (x : Line) (b : Bool) : CommutesWithClearing (chipsSeeDrive x b) := by
  intro s
  cases x <;> cases b <;> rfl

theorem chipsSeeFailedDrive_cleared (x : Line) : CommutesWithClearing (chipsSeeFailedDrive x) := by
  intro s
  cases x <;> rfl

theorem captureRead_cleared (b : Bank) (r : RegAddr) : CommutesWithClearing (captureRead b r) := by
  intro s
  unfold captureRead
  rw [cleared_chips]
  split <;> rfl

theorem expanderTakes_cleared (b : Bank) (t0 t1 : Byte) : CommutesWithClearing (expanderTakes b t0 t1) := by
  intro s
  unfold expanderTakes
  split
  · exact captureRead_cleared b _ s
  · split <;> rfl

theorem expanderMisses_cleared (b : Bank) (t0 : Byte) : CommutesWithClearing (expanderMisses b t0) := by
  intro s
  unfold expanderMisses
  split <;> rfl

theorem chipsTake_cleared (t0 t1 : Byte) : CommutesWithClearing (chipsTake t0 t1) := by
  intro s
  unfold chipsTake
  rw [cleared_lines]
  split
  · exact expanderTakes_cleared _ t0 t1 s
  · rfl
  · rfl

theorem chipsMiss_cleared (t0 : Byte) : CommutesWithClearing (chipsMiss t0) := by
  intro s
  unfold chipsMiss
  rw [cleared_lines]
  split
  · exact expanderMisses_cleared _ t0 s
  · rfl
  · rfl

theorem loseRegister_cleared (r : Byte) : CommutesWithClearing (loseRegister r) := by
  intro s
  unfold loseRegister
  rw [cleared_lines]
  split <;> rfl

/-! ### The primitives and the instructions -/

/-- A drive runs on the cleared state as on the state (R12). -/
theorem readsNoWorking_drive (x : Line) (b : Bool) : ReadsNoWorking (drive x b) := by
  intro s
  simp only [drive, driveChoice_cleared, cleared_emit, chipsSeeDrive_cleared x b _, chipsSeeFailedDrive_cleared x _]
  split <;> exact ⟨rfl, rfl⟩

/-- An exchange replaces `BUF` and sends the bytes it is given (R14). -/
theorem readsNoWorking_xfer (t0 t1 : Byte) : ReadsNoWorking (xfer t0 t1) := by
  intro s
  simp only [xfer, xferChoice_cleared, cleared_emit, chipsTake_cleared t0 t1 _, chipsMiss_cleared t0 _]
  split <;> exact ⟨rfl, rfl⟩

theorem FromPrimitives.readsNoWorking {α : Type} {m : Op α} (hm : FromPrimitives m) : ReadsNoWorking m := by
  induction hm with
  | ret a => exact fun _ => ⟨rfl, rfl⟩
  | raise e he => exact fun _ => ⟨rfl, rfl⟩
  | andThen _ _ ihm ihk => exact readsNoWorking_andThen ihm ihk
  | losing r _ ih => exact readsNoWorking_onError ih (loseRegister_cleared r)
  | drive x b => exact readsNoWorking_drive x b
  | settle => exact fun _ => ⟨rfl, rfl⟩
  | xfer t0 t1 => exact readsNoWorking_xfer t0 t1
  | writeComb c => exact fun _ => ⟨rfl, rfl⟩
  | writeCfgtmp v => exact fun _ => ⟨rfl, rfl⟩
  | readCfg => exact fun _ => ⟨rfl, rfl⟩

/-- Settling the chips does not look at the working registers (R244). -/
theorem settleChips_cleared (s t : State) : settleChips s.cleared t.cleared = (settleChips s t).cleared := by
  unfold settleChips
  rw [cleared_env, cleared_lines, cleared_seq]
  split <;> rfl

theorem settleChips_congr {s s' t t' : State} (hs : s'.cleared = s.cleared) (ht : t'.cleared = t.cleared) :
    (settleChips s' t').cleared = (settleChips s t).cleared := by
  rw [← settleChips_cleared, ← settleChips_cleared, hs, ht]

/-- States that clear to the same differ in the working registers and the response alone. -/
theorem eq_of_cleared_eq {t t' : State} (h : t'.cleared = t.cleared) :
    t' = { t with buf0 := t'.buf0, buf1 := t'.buf1, comb := t'.comb, cfgtmp := t'.cfgtmp, rsp := t'.rsp } := by
  cases t
  cases t'
  simp only [State.cleared, State.mk.injEq] at h ⊢
  simp only [h, and_self]

/-- An instruction gives the same response from states that clear to the same, and leaves such states. -/
theorem exec_cleared_congr (i : Instr) {s s' : State} (h : s'.cleared = s.cleared) :
    ∃ t t', exec i s = .next t ∧ exec i s' = .next t' ∧ t'.rsp = t.rsp ∧ t'.cleared = t.cleared := by
  obtain ⟨m, hm, hexec⟩ := exec_fromPrimitives i
  have hbegin : (s'.begin i).cleared = (s.begin i).cleared := congrArg (State.begin · i) h
  obtain ⟨hres, hleft⟩ := hm.readsNoWorking.congr hbegin
  refine ⟨_, _, hexec s, hexec s', congrArg (fun r => some (rspWord r)) hres, ?_⟩
  exact congrArg (fun u : State => { u with seq := Sequencer.idle }) (settleChips_congr h hleft)

/-- Settles O59: states that differ in the working registers and the response alone clear to the same. -/
theorem workingRegistersCarryNothingOver : Obligations.WorkingRegistersCarryNothingOver := by
  intro i s x y z c r
  obtain ⟨t, t', hexec, hexec', hrsp, hcleared⟩ := exec_cleared_congr i (s := s)
    (s' := { s with buf0 := x, buf1 := y, comb := c, cfgtmp := z, rsp := r }) rfl
  refine ⟨t, t', hexec, hexec', ?_⟩
  calc t' = { t with buf0 := t'.buf0, buf1 := t'.buf1, comb := t'.comb, cfgtmp := t'.cfgtmp, rsp := t'.rsp } :=
        eq_of_cleared_eq hcleared
    _ = { t with buf0 := t'.buf0, buf1 := t'.buf1, comb := t'.comb, cfgtmp := t'.cfgtmp } := by rw [hrsp]

/-! ### What a read request captures (R30, R62, R63) -/

/-- A frame that is no write stores nothing (R30, R62). -/
theorem chipsTake_regs {t0 : Byte} (t1 : Byte) (s : State) (h : t0.getLsbD 7 = true ∨ t0 = 0x00) :
    (chipsTake t0 t1 s).chips.regs = s.chips.regs := by
  unfold chipsTake expanderTakes
  repeat' split
  · exact (captureRead_keeps _ _ s).1
  · rfl
  · next hnr hnz => exact (h.elim hnr hnz).elim
  · rfl
  · rfl

/-- A frame whose first byte is zero is the no-operation, whatever its second (R26, R62). -/
theorem chipsTake_zero (t1 : Byte) (s : State) : chipsTake 0x00 t1 s = s := by
  unfold chipsTake
  split <;> rfl

theorem chipsTake_request {t0 : Byte} (t1 : Byte) {s : State} {b : Bank} (hb : Addresses s .dout b)
    (hr : t0.getLsbD 7 = true) : chipsTake t0 t1 s = captureRead b (regOf t0) s := by
  rw [chipsTake_addressed t0 t1 hb, expanderTakes, if_pos hr]

/-- A read request sets no pending value but the addressed chip's. -/
theorem captureRead_pend_other {b b' : Bank} (r : RegAddr) (s : State) (h : b' ≠ b) :
    (captureRead b r s).chips.pend.get b' = s.chips.pend.get b' := by
  unfold captureRead
  split <;> simpa using six_get_set_other s.chips.pend b b' _ h

/-- The captured value is the register's, but for a port register of a chip that is not awake (R63, U2). -/
theorem captureRead_pend_same {b : Bank} {r : RegAddr} {s : State} (h : isPortReg r = true → s.chips.awake b = true) :
    (captureRead b r s).chips.pend.get b = regValue s b r := by
  unfold captureRead
  split
  · next hc =>
    rw [Bool.and_eq_true, Bool.not_eq_true'] at hc
    rw [h hc.1] at hc
    cases hc.2
  · simp

theorem regValue_notPort (s : State) (b : Bank) {r : RegAddr} (h : isPortReg r = false) :
    regValue s b r = s.chips.reg b r := by
  simp [regValue, h]

/-- A port register's value: the byte last written to an output port, the signal at the pin of any other (R63). -/
theorem regValue_port (s : State) (b : Bank) {r : RegAddr} (h : isPortReg r = true) :
    regValue s b r = if s.chips.portField b (portOfReg r) = fieldOutput then s.chips.reg b r
      else bitByte ((s.pinIn.get b).getLsbD (portOfReg r)) := by
  by_cases hf : s.chips.portField b (portOfReg r) = fieldOutput <;> simp [regValue, h, hf]

/-- An instruction of one frame that nothing disturbs leaves the chips as the addressed chip's taking of the frame
does (R62, R111, R244). -/
theorem oneFrame_chips {i : Instr} {t0 t1 : Byte} {s : State} (h : OneFrame i t0 t1) (hq : Quiet 3 s)
    (hrules : ChipsFollowRules s) : ∃ t, exec i s = .next t ∧ t.chips = (chipsTake t0 t1 s).chips := by
  obtain ⟨r0, r1, u, hu, -, -, -, -, -, -, -, -, hchips, -⟩ := frame_quiet (n := 0) (s := s.begin i) t0 t1 hq
  have hrun : asUnit (onError (frame t0 t1) (frameLoss i t0)) (s.begin i) = (.ok .unit, u) := by
    rw [asUnit, andThen_ok (onError_ok hu)]
    rfl
  refine ⟨_, (oneFrame_exec h s).trans (runCommand_eq hrun), ?_⟩
  rw [settleChips_still (.inl hrules), complete_chips, hchips]
  exact (chipsTake_congr (s := s) (t := s.begin i) t0 t1 ⟨rfl, rfl, rfl, rfl⟩).1

/-- Settles O22: the chips are as the addressed chip's taking of the frame leaves them, and it takes a read request by
capturing the register's value. -/
theorem requestFrameCapturesTheRegister : Obligations.RequestFrameCapturesTheRegister := by
  intro i t0 t1 s hframe hkind hquiet hrules
  obtain ⟨t, hexec, hchips⟩ := oneFrame_chips hframe hquiet hrules
  refine ⟨t, hexec, ?_⟩
  rw [hchips]
  refine ⟨chipsTake_regs t1 s hkind, chipsTake_lat t0 t1 s, ?nop, fun hun => ?unaddressed, fun hr b hb => ?request⟩
  case nop =>
    rintro rfl
    rw [chipsTake_zero]
  case unaddressed => rw [chipsTake_unaddressed t0 t1 hun]
  case request =>
    rw [chipsTake_request t1 hb hr]
    refine ⟨fun b' hb' => captureRead_pend_other _ s hb', fun hport => ?_, fun hport hawake => ?_⟩
    · rw [captureRead_pend_same (by simp [hport]), regValue_notPort s b hport]
    · rw [captureRead_pend_same fun _ => hawake, regValue_port s b hport]
      rfl

end Sys2Proof.Machine
end

section
/-! SUPPORT. The statements of the family memory: what the frames store and the reads return on the reference responder
(O21, O27, O28, O30), what the queries answer there (O34, O36), what `INIT` leaves in the chips (O38), that the
reference responder never fails (O48), and that the reads store nothing whatever the environment does (O55). -/

namespace Sys2Proof.Machine

/-! ### One write frame (R62, R112) -/

/-- A write to the addressed port expander changes the one byte and no hidden register. -/
theorem chipsTake_write_frame {t0 : Byte} (t1 : Byte) {s : State} {b : Bank} (hb : Addresses s .dout b)
    (hw : t0.getLsbD 7 = false) (hz : t0 ≠ 0x00) (hwf : memWf s.chips.regs = true) :
    memRead (chipsTake t0 t1 s).chips.regs (regAddr b (regOf t0)) = t1 ∧
      SameMemExcept (regAddr b (regOf t0)) s (chipsTake t0 t1 s) ∧ SameHidden s (chipsTake t0 t1 s) := by
  refine ⟨?stored, chipsTake_mem t0 t1 hb, ?hidden⟩
  case stored =>
    rw [chipsTake_write t1 hb hw hz]
    exact reg_setReg_same b (regOf t0) t1 hwf
  case hidden =>
    rw [SameHidden, chipsTake_write t1 hb hw hz]
    exact ⟨rfl, rfl⟩

/-- Settles O21: the chips are as the addressed chip's taking of the frame leaves them, and it takes a write by storing
the data byte. -/
theorem writeFrameStoresOneByte : Obligations.WriteFrameStoresOneByte := by
  intro i t0 t1 s hframe hw hz hquiet hrules hwf
  obtain ⟨t, hexec, hchips⟩ := oneFrame_chips hframe hquiet hrules
  refine ⟨t, hexec, fun b hb => ?_, fun hun => by rw [hchips, chipsTake_unaddressed t0 t1 hun]⟩
  simpa only [SameMemExcept, SameHidden, hchips] using chipsTake_write_frame t1 hb hw hz hwf

/-! ### Runs that leave the world, the selection and the memory as they were -/

theorem SameWorld.cfg {s t : State} (h : SameWorld s t) : t.cfg = s.cfg := h.1

theorem SameWorld.env {s t : State} (h : SameWorld s t) : t.env = s.env := h.2.1

theorem SameWorld.trans {s t u : State} (h : SameWorld s t) (k : SameWorld t u) : SameWorld s u := by
  obtain ⟨hcfg, henv, hpin, hsensed, hport⟩ := h
  obtain ⟨kcfg, kenv, kpin, ksensed, kport⟩ := k
  exact ⟨kcfg.trans hcfg, kenv.trans henv, kpin.trans hpin, ksensed.trans hsensed, kport.trans hport⟩

/-- What a read of a chip leaves alone: the world, the address on the select lines, every byte of memory. -/
structure Undisturbed (s t : State) : Prop where
  world : SameWorld s t
  address : t.lines.address = s.lines.address
  regs : t.chips.regs = s.chips.regs

namespace Undisturbed

variable {s t u : State}

theorem trans (h : Undisturbed s t) (k : Undisturbed t u) : Undisturbed s u :=
  ⟨h.world.trans k.world, k.address.trans h.address, k.regs.trans h.regs⟩

theorem reg (h : Undisturbed s t) (b : Bank) (r : RegAddr) : t.chips.reg b r = s.chips.reg b r := by
  rw [Chips.reg, Chips.reg, h.regs]

theorem awake (h : Undisturbed s t) (b : Bank) : t.chips.awake b = s.chips.awake b := by
  rw [Chips.awake, Chips.awake, h.reg]

theorem portField (h : Undisturbed s t) (b : Bank) (p : Nat) : t.chips.portField b p = s.chips.portField b p := by
  rw [Chips.portField, Chips.portField, h.reg]

end Undisturbed

/-- A command that the reference responder lets run to a value completes, with some events; where its operation leaves
the registers as they were, no byte of memory changes. -/
theorem completes_undisturbed {i : Instr} {m : Op Value} {s u : State} {v : Value}
    (hexec : exec i s = runCommand i m s) (he : s.env = .reference) (hrun : m (s.begin i) = (.ok v, u))
    (hu : u.chips.regs = s.chips.regs) : ∃ ev t, Completes i s v ev t ∧ SameMem s t := by
  have hnext := hexec.trans (runCommand_eq hrun)
  obtain ⟨hworld, ev, hev⟩ := instructionsLeaveTheWorldAlone i s _ hnext
  refine ⟨ev, _, ⟨hnext, rfl, hev, rfl, hworld⟩, fun a => ?_⟩
  rw [settleChips_still (.inl (.inl he)), complete_chips, hu]

/-! ### Reading a register on the reference responder (R62, R63, R113) -/

theorem regOf_readRequest (r : Byte) : regOf (readRequest r) = regOf r := by
  simp [regOf, readRequest, Config.peReadFlag, BitVec.setWidth_or]

theorem readRequest_isRequest (r : Byte) : (readRequest r).getLsbD 7 = true := by
  simp [readRequest, Config.peReadFlag]

/-- A register read returns the register's value: of a port register, when the chip is awake. -/
theorem regRead_reference {s : State} {b : Bank} {r : Byte} (he : s.env = .reference) (hb : Addresses s .dout b)
    (hport : isPortReg (regOf r) = true → s.chips.awake b = true) :
    ∃ t, regRead r s = (.ok (regValue s b (regOf r)), t) ∧ Undisturbed s t ∧ t.chips.lat = s.chips.lat := by
  obtain ⟨q, a, t, hrun, -, -, hlines, -, -, -, -, ⟨hworld, -⟩, hchips, -, hanswer⟩ := regRead_quiet (n := 0) r (.inl he)
  have hrequest : (readRequest r).getLsbD 7 = true ∨ readRequest r = 0x00 := .inl (readRequest_isRequest r)
  have hvalue : respByte s.cfg a = regValue s b (regOf r) := by
    rw [hanswer he b hb, chipsTake_request 0x00 hb (readRequest_isRequest r), regOf_readRequest,
      captureRead_pend_same hport]
  refine ⟨t, hvalue ▸ hrun, ⟨hworld, by rw [hlines]; rfl, ?_⟩, ?_⟩
  · rw [hchips, chipsTake_regs 0x00 s hrequest]
  · rw [hchips, chipsTake_lat]

/-! ### The registers of a port -/

section Ports

variable {p : Byte} (hlo : 4 ≤ p.toNat) (hhi : p.toNat ≤ 31)
include hlo hhi

theorem portInRange_of_bounds : portInRange p = true := by
  simp [portInRange, Config.portMin, Config.portMax, hlo, hhi]

theorem toNat_portReg : (portReg p).toNat = 0x20 + p.toNat := by
  simp only [portReg, Config.peWriteBase, BitVec.toNat_add, BitVec.reduceToNat]
  omega

theorem portReg_isWrite : (portReg p).getLsbD 7 = false ∧ portReg p ≠ 0x00 := by
  have hp := toNat_portReg hlo hhi
  refine ⟨Nat.testBit_lt_two_pow (by omega), fun h => ?_⟩
  simp only [h, BitVec.reduceToNat] at hp
  omega

theorem toNat_regOf_portReg : (regOf (portReg p)).toNat = 0x20 + p.toNat := by
  rw [regOf, BitVec.toNat_setWidth, toNat_portReg hlo hhi]
  omega

theorem isPortReg_portReg : isPortReg (regOf (portReg p)) = true := by
  simp only [isPortReg, toNat_regOf_portReg hlo hhi, Config.peWriteBase, Config.portMin, Config.portMax,
    BitVec.reduceToNat, Bool.and_eq_true, decide_eq_true_eq]
  omega

theorem portOfReg_portReg : portOfReg (regOf (portReg p)) = p.toNat := by
  simp [portOfReg, toNat_regOf_portReg hlo hhi, Config.peWriteBase]

end Ports

theorem levelOfByte_bitByte (x : Bool) : levelOfByte (bitByte x) = pinLevel x := by cases x <;> rfl

/-- The level of an input port is the signal at its pin (R63, R75). -/
theorem level_of_inputPort {s : State} {b : Bank} {p : Byte} (hlo : 4 ≤ p.toNat) (hhi : p.toNat ≤ 31)
    (hin : s.chips.portField b p.toNat ≠ 0b01) :
    levelOfByte (regValue s b (regOf (portReg p))) = pinLevel ((s.pinIn.get b).getLsbD p.toNat) := by
  have hne : s.chips.portField b p.toNat ≠ fieldOutput := hin
  rw [regValue_port s b (isPortReg_portReg hlo hhi), portOfReg_portReg hlo hhi, if_neg hne, levelOfByte_bitByte]

/-- A port read of an awake chip answers the level of the port register's value (R116). -/
theorem opReadPort_reference {s : State} {b : Bank} {p : Byte} (hlo : 4 ≤ p.toNat) (hhi : p.toNat ≤ 31)
    (he : s.env = .reference) (hb : Addresses s .dout b) (hawake : s.chips.awake b = true) :
    ∃ t, opReadPort p s = (.ok (levelOfByte (regValue s b (regOf (portReg p)))), t) ∧ Undisturbed s t := by
  obtain ⟨t, hrun, hund, -⟩ := regRead_reference (r := portReg p) he hb fun _ => hawake
  refine ⟨t, ?_, hund⟩
  rw [opReadPort, checkPort, portInRange_of_bounds hlo hhi, require_true, andThen_ret, andThen_ok hrun]
  rfl

/-- The level of an input port of an awake chip, read. -/
theorem opReadPort_input {s : State} {b : Bank} {p : Byte} (hlo : 4 ≤ p.toNat) (hhi : p.toNat ≤ 31)
    (he : s.env = .reference) (hb : Addresses s .dout b) (hawake : s.chips.awake b = true)
    (hin : s.chips.portField b p.toNat ≠ 0b01) :
    ∃ t, opReadPort p s = (.ok (pinLevel ((s.pinIn.get b).getLsbD p.toNat)), t) ∧ Undisturbed s t := by
  rw [← level_of_inputPort hlo hhi hin]
  exact opReadPort_reference hlo hhi he hb hawake

/-- `PE_READ_PORT` of an awake chip completes with the level of the port register's value. -/
theorem peReadPort_reference {s : State} {b : Bank} {p : Byte} (hlo : 4 ≤ p.toNat) (hhi : p.toNat ≤ 31)
    (he : s.env = .reference) (hb : Addresses s .dout b) (hawake : s.chips.awake b = true) :
    ∃ ev t, Completes (.peReadPort p) s (.level (levelOfByte (regValue s b (regOf (portReg p))))) ev t ∧
      SameMem s t := by
  obtain ⟨u, hrun, hund⟩ := opReadPort_reference (s := s.begin (.peReadPort p)) hlo hhi he hb hawake
  exact completes_undisturbed (m := andThen (opReadPort p) fun l => ret (.level l)) rfl he (by rw [andThen_ok hrun]; rfl)
    hund.regs

/-- Settles O28: the response byte is the port register's value, which of an input port is its pin. -/
theorem inputPortReadsItsPin : Obligations.InputPortReadsItsPin := by
  intro p s b hlo hhi he hb hawake hin
  obtain ⟨ev, t, ⟨hexec, hrsp, -⟩, hmem⟩ := peReadPort_reference hlo hhi he hb hawake
  exact ⟨t, hexec, by rw [hrsp, level_of_inputPort hlo hhi hin], hmem⟩

/-! ### Writing a port and reading it back (R63, R75, R249) -/

theorem portWriteFrame {l : Level} {p : Byte} (hl : l ≠ .low) (hp : 4 ≤ p.toNat ∧ p.toNat ≤ 31) :
    OneFrame (.peWritePort l p) (portReg p) (bitByte (l = .high)) := by
  cases l with
  | low => exact absurd rfl hl
  | high => exact .writeHigh p hp
  | hiz => exact .writeHiz p hp

/-- The one frame of an instruction, on the reference responder: it answers `Ok`, the select lines keep their address,
and the addressed chip has taken the frame. -/
theorem oneFrame_reference {i : Instr} {t0 t1 : Byte} {s : State} (h : OneFrame i t0 t1) (he : s.env = .reference) :
    ∃ t, exec i s = .next t ∧ t.rsp = some 0x0000 ∧ t.lines.address = s.lines.address ∧
      t.chips = (chipsTake t0 t1 s).chips := by
  obtain ⟨r0, r1, u, hu, -, -, hlines, -, -, -, -, -, hchips, -⟩ :=
    frame_quiet (n := 0) (s := s.begin i) t0 t1 (.inl he)
  have hrun : asUnit (onError (frame t0 t1) (frameLoss i t0)) (s.begin i) = (.ok .unit, u) := by
    rw [asUnit, andThen_ok (onError_ok hu)]
    rfl
  refine ⟨_, (oneFrame_exec h s).trans (runCommand_eq hrun), rfl, ?_, ?_⟩ <;>
    rw [settleChips_still (.inl (.inl he))]
  · rw [complete_lines, hlines]
    rfl
  · exact hchips.trans (chipsTake_congr (s := s) (t := s.begin i) t0 t1 ⟨rfl, rfl, rfl, rfl⟩).1

/-- A port write leaves the registers below the port registers alone: the global configuration register and those of
the configuration fields. -/
theorem reg_setReg_portReg (c : Chips) (b : Bank) {p : Byte} (v : Byte) {r : RegAddr} (hlo : 4 ≤ p.toNat)
    (hhi : p.toNat ≤ 31) (hr : r.toNat < 0x20) : (c.setReg b (regOf (portReg p)) v).reg b r = c.reg b r := by
  refine reg_setReg_other _ _ _ _ _ _ fun ⟨_, h⟩ => ?_
  rw [h, toNat_regOf_portReg hlo hhi] at hr
  omega

theorem awake_setReg_portReg (c : Chips) (b : Bank) {p : Byte} (v : Byte) (hlo : 4 ≤ p.toNat) (hhi : p.toNat ≤ 31) :
    (c.setReg b (regOf (portReg p)) v).awake b = c.awake b := by
  rw [Chips.awake, Chips.awake, reg_setReg_portReg c b v hlo hhi (by decide)]

theorem portField_setReg_portReg (c : Chips) (b : Bank) {p : Byte} (v : Byte) {k : Nat} (hlo : 4 ≤ p.toNat)
    (hhi : p.toNat ≤ 31) (hk : k ≤ 31) : (c.setReg b (regOf (portReg p)) v).portField b k = c.portField b k := by
  have hcfg : (BitVec.ofNat 7 (Config.peCfgBase.toNat + k / 4)).toNat < 0x20 := by
    simp only [BitVec.toNat_ofNat, Config.peCfgBase, BitVec.reduceToNat]
    omega
  rw [Chips.portField, Chips.portField, reg_setReg_portReg c b v hlo hhi hcfg]

/-- Settles O27: the write stores the level's byte in the port register, and of an output port the read returns that
byte. -/
theorem outputPortReadsBackWhatWasWritten : Obligations.OutputPortReadsBackWhatWasWritten := by
  intro l p s b hl hlo hhi he hwf hb hawake hout
  obtain ⟨hw, hz⟩ := portReg_isWrite hlo hhi
  obtain ⟨t, hexec, hrsp, haddr, hchips⟩ := oneFrame_reference (portWriteFrame hl ⟨hlo, hhi⟩) he
  obtain ⟨⟨-, henv, -⟩, -⟩ := instructionsLeaveTheWorldAlone _ s t hexec
  have hstored : t.chips = s.chips.setReg b (regOf (portReg p)) (bitByte (l = .high)) := by
    rw [hchips, chipsTake_write _ hb hw hz]
  have hvalue : regValue t b (regOf (portReg p)) = bitByte (l = .high) := by
    have hfield : t.chips.portField b p.toNat = fieldOutput := by
      rw [hstored, portField_setReg_portReg s.chips b _ hlo hhi hhi, hout]
      rfl
    rw [regValue_port t b (isPortReg_portReg hlo hhi), portOfReg_portReg hlo hhi, if_pos hfield, hstored,
      reg_setReg_same b _ _ hwf]
  obtain ⟨ev, u, ⟨hread, hanswer, -⟩, -⟩ := peReadPort_reference (s := t) (b := b) hlo hhi (henv.trans he)
    (haddr.trans hb) (by rw [hstored, awake_setReg_portReg s.chips b _ hlo hhi, hawake])
  refine ⟨t, u, hexec, hrsp, hread, ?_⟩
  rw [hanswer, hvalue, levelOfByte_bitByte]
  simp [pinLevel]

/-! ### The output queries on the reference responder (R183 to R185) -/

/-- Two port reads, both ports inputs of an awake chip. -/
theorem readTwo_inputs {s : State} {b : Bank} {p q : Byte} (hp : 4 ≤ p.toNat ∧ p.toNat ≤ 31)
    (hq : 4 ≤ q.toNat ∧ q.toNat ≤ 31) (he : s.env = .reference) (hb : Addresses s .dout b)
    (hawake : s.chips.awake b = true) (hpin : s.chips.portField b p.toNat ≠ 0b01)
    (hqin : s.chips.portField b q.toNat ≠ 0b01) :
    ∃ t, readTwo p q s =
        (.ok (pinLevel ((s.pinIn.get b).getLsbD p.toNat), pinLevel ((s.pinIn.get b).getLsbD q.toNat)), t) ∧
      Undisturbed s t := by
  obtain ⟨t, hrun, hund⟩ := opReadPort_input hp.1 hp.2 he hb hawake hpin
  obtain ⟨-, henv, hpins, -⟩ := hund.world
  obtain ⟨u, hrun', hund'⟩ := opReadPort_input (s := t) (b := b) hq.1 hq.2 (henv.trans he) (hund.address.trans hb)
    (by rw [hund.awake, hawake]) (by rwa [hund.portField])
  refine ⟨u, ?_, hund.trans hund'⟩
  rw [readTwo, andThen_ok hrun, andThen_ok hrun', hpins]
  rfl

/-- What the supply ports of a bank carry, decoded (R173). -/
abbrev pinSupply (s : State) (b : Bank) : OutSupply :=
  outSupply s.cfg.outSupply (pinLevel ((s.pinIn.get b).getLsbD 20)) (pinLevel ((s.pinIn.get b).getLsbD 21))

theorem readSupply_inputs {s : State} {b : Bank} (he : s.env = .reference) (hb : Addresses s .dout b)
    (hawake : s.chips.awake b = true) (h20 : s.chips.portField b 20 ≠ 0b01) (h21 : s.chips.portField b 21 ≠ 0b01) :
    ∃ t, readSupply s = (.ok (pinSupply s b), t) ∧ Undisturbed s t := by
  obtain ⟨t, hrun, hund⟩ := readTwo_inputs (p := 20) (q := 21) (by decide) (by decide) he hb hawake h20 h21
  refine ⟨t, ?_, hund⟩
  rw [readSupply, andThen_ok hrun, andThen_readCfg, hund.world.cfg]
  rfl

/-- A selection on the reference responder: the chip is addressed and the chips are as they were. -/
theorem opSelect_reference {s : State} (d : Direction) (b : Bank) (he : s.env = .reference) :
    ∃ t, opSelect d b s = (.ok (), t) ∧ Addresses t d b ∧ SameWorld s t ∧ t.chips = s.chips := by
  obtain ⟨t, hrun, -, -, hlines, -, -, -, -, ⟨hworld, -⟩, hchips, -⟩ := select_quiet (n := 0) (chipAddr d b) (.inl he)
  exact ⟨t, hrun, by rw [Addresses, hlines, address_withAddress], hworld, hchips⟩

/-- The translation of a logical address (R162). -/
theorem locate_logical {l : BitVec 8} {b : Bank} {k : Nat} (e : ErrKind) (hlo : 1 ≤ k) (hhi : k ≤ 8)
    (hl : l.toNat = (bankOrdinal b - 1) * 8 + k) : locate l e = ret (b, k) := by
  have hb : 1 ≤ bankOrdinal b ∧ bankOrdinal b ≤ 6 ∧ bankOfOrdinal? (bankOrdinal b) = some b := by cases b <;> decide
  obtain ⟨hb1, hb6, hbank⟩ := hb
  have hrange : logicalInRange l = true := by
    rw [logicalInRange, Bool.and_eq_true, decide_eq_true_eq, decide_eq_true_eq, Config.nLogical]
    omega
  have hord : logicalBankOrdinal l = bankOrdinal b := by
    simp only [logicalBankOrdinal, Config.nLocal]
    omega
  have hlocal : logicalLocal l = k := by
    simp only [logicalLocal, Config.nLocal]
    omega
  rw [locate, hrange, require_true, andThen_ret, hord, hbank, hlocal]

theorem toNat_statePort {k : Nat} (hk : k ≤ 8) : (statePort k).toNat = k + 11 := by
  simp only [statePort, BitVec.toNat_ofNat]
  omega

/-- `GET_OUTPUT_STATE` of a bank that has a supply: the line state of the state port's pin. -/
theorem opGetOutputState_inputs {s : State} {b : Bank} {l : BitVec 8} {k : Nat} (hlo : 1 ≤ k) (hhi : k ≤ 8)
    (hl : l.toNat = (bankOrdinal b - 1) * 8 + k) (he : s.env = .reference) (hawake : s.chips.awake b = true)
    (h20 : s.chips.portField b 20 ≠ 0b01) (h21 : s.chips.portField b 21 ≠ 0b01)
    (hk : s.chips.portField b (k + 11) ≠ 0b01) (hsupply : pinSupply s b ≠ .unpowered) :
    ∃ u, opGetOutputState l s = (.ok (lineOfLevel (pinLevel ((s.pinIn.get b).getLsbD (k + 11)))), u) ∧
      u.chips.regs = s.chips.regs := by
  have hport := toNat_statePort hhi
  obtain ⟨t, hselect, hb, ⟨hcfg, henv, hpins, -⟩, hchips⟩ := opSelect_reference .dout b he
  rw [← hchips] at hawake h20 h21 hk
  obtain ⟨v, hread, hund⟩ := readSupply_inputs (henv.trans he) hb hawake h20 h21
  obtain ⟨-, henv', hpins', -⟩ := hund.world
  obtain ⟨u, hstate, hund'⟩ := opReadPort_input (s := v) (b := b) (p := statePort k) (by omega) (by omega)
    ((henv'.trans henv).trans he) (hund.address.trans hb) (by rw [hund.awake, hawake])
    (by rwa [hund.portField, hport])
  have hsup : pinSupply t b = pinSupply s b := by rw [pinSupply, hcfg, hpins]
  refine ⟨u, ?_, by rw [hund'.regs, hund.regs, hchips]⟩
  rw [opGetOutputState, locate_logical _ hlo hhi hl, andThen_ret, andThen_ok hselect, andThen_ok hread, hsup,
    decide_eq_true hsupply, require_true, andThen_ret, andThen_ok hstate, hport, hpins', hpins]
  rfl

/-- Settles O34: after the selection every port read answers the pin. -/
theorem outputQueriesAnswerThePins : Obligations.OutputQueriesAnswerThePins := by
  intro b s he hawake
  refine ⟨fun h20 h21 => ?supply, fun h22 h23 => ?thermal, fun l k hlo hhi hl h20 h21 hk hsup => ?state⟩
  case supply =>
    obtain ⟨t, hselect, hb, ⟨hcfg, henv, hpins, -⟩, hchips⟩ :=
      opSelect_reference (s := s.begin (.getOutputSupply b)) .dout b he
    rw [begin_chips] at hchips
    rw [← hchips] at hawake h20 h21
    obtain ⟨u, hread, hund⟩ := readSupply_inputs (henv.trans he) hb hawake h20 h21
    refine completes_undisturbed (m := andThen (opGetOutputSupply b) fun v => ret (.supply v)) (u := u) rfl he ?_
      (by rw [hund.regs, hchips])
    rw [opGetOutputSupply, andThen_assoc, andThen_ok hselect, andThen_assoc, andThen_ok hread, pinSupply, hcfg, hpins]
    rfl
  case thermal =>
    obtain ⟨t, hselect, hb, ⟨hcfg, henv, hpins, -⟩, hchips⟩ :=
      opSelect_reference (s := s.begin (.getOutputThermal b)) .dout b he
    rw [begin_chips] at hchips
    rw [← hchips] at hawake h22 h23
    obtain ⟨u, hread, hund⟩ := readTwo_inputs (p := 22) (q := 23) (by decide) (by decide) (henv.trans he) hb hawake
      h22 h23
    refine completes_undisturbed (m := andThen (opGetOutputThermal b) fun v => ret (.thermal v)) (u := u) rfl he ?_
      (by rw [hund.regs, hchips])
    rw [opGetOutputThermal, andThen_assoc, andThen_ok hselect, andThen_assoc, andThen_ok hread, andThen_assoc,
      andThen_readCfg, hund.world.cfg, hcfg, hpins]
    rfl
  case state =>
    obtain ⟨u, hrun, hregs⟩ := opGetOutputState_inputs (s := s.begin (.getOutputState l)) hlo hhi hl he hawake h20 h21
      hk hsup
    have hline : lineOfLevel (pinLevel ((s.pinIn.get b).getLsbD (k + 11))) =
        if (s.pinIn.get b).getLsbD (k + 11) then .normal else .openOrFault := by
      cases (s.pinIn.get b).getLsbD (k + 11) <;> rfl
    rw [← hline]
    exact completes_undisturbed (m := andThen (opGetOutputState l) fun v => ret (.line v)) rfl he
      (by rw [andThen_ok hrun]; rfl) hregs

/-! ### The serial-input frame on the reference responder (R64, R141 to R144) -/

theorem rev8_rev8 (b : Byte) : rev8 (rev8 b) = b := by
  revert b
  decide

/-- Assembling the two bytes an input chip sends gives back its frame (R64, R142). -/
theorem combined_of_frame (w : Word) : combined (w.extractLsb' 0 8) (rev8 (w.extractLsb' 8 8)) = w := by
  rw [combined, rev8_rev8]
  apply BitVec.eq_of_getLsbD_eq
  intro i hi
  rw [BitVec.getLsbD_append, BitVec.getLsbD_extractLsb', BitVec.getLsbD_extractLsb']
  grind

/-- A clean header has no bit among the parity and data bits. -/
theorem headerClean_getLsbD {cfg : Params} (hh : HeaderClean cfg) {k : Nat} (hk : k ≤ 10) :
    cfg.diHeader.getLsbD k = false := by
  have hbit := congrArg (BitVec.getLsbD · k) hh
  interval_cases k <;> simpa using hbit

/-- The parity bit a serial-input chip sends (R64, R144). -/
def sampledParity (cfg : Params) (d : BitVec 10) : Bool :=
  match cfg.diParityMode with
  | .asImplemented => !dataParity (d.setWidth 16)
  | .agreement => dataParity (d.setWidth 16)

theorem sampledWord_eq (cfg : Params) (d : BitVec 10) :
    sampledWord cfg d =
      cfg.diHeader ||| ((BitVec.ofBool (sampledParity cfg d)).setWidth 16 <<< 10) ||| d.setWidth 16 := rfl

/-- The bits of the frame a serial-input chip sends: header, parity bit, data (R32). -/
theorem sampledWord_getLsbD {cfg : Params} (d : BitVec 10) {k : Nat} (hk : k < 16) :
    (sampledWord cfg d).getLsbD k =
      (cfg.diHeader.getLsbD k || (decide (k = 10) && sampledParity cfg d) || d.getLsbD k) := by
  have hpar : ((BitVec.ofBool (sampledParity cfg d)).setWidth 16 <<< 10).getLsbD k =
      (decide (k = 10) && sampledParity cfg d) := by
    cases sampledParity cfg d <;> interval_cases k <;> rfl
  rw [sampledWord_eq, BitVec.getLsbD_or, BitVec.getLsbD_or, hpar, BitVec.getLsbD_setWidth, decide_eq_true hk,
    Bool.true_and]

/-- The data bits read as sensed (R64). -/
theorem sampledWord_dataBit {cfg : Params} (d : BitVec 10) (hh : HeaderClean cfg) {k : Nat} (hk : k ≤ 9) :
    (sampledWord cfg d).getLsbD k = d.getLsbD k := by
  rw [sampledWord_getLsbD d (by omega), headerClean_getLsbD hh (by omega), decide_eq_false (by omega : k ≠ 10)]
  simp

theorem sampledWord_parityBit {cfg : Params} (d : BitVec 10) (hh : HeaderClean cfg) :
    (sampledWord cfg d).getLsbD 10 = sampledParity cfg d := by
  rw [sampledWord_getLsbD d (by decide), headerClean_getLsbD hh (by decide)]
  simp

/-- The data bits of the frame are the sensed data, nothing else. -/
theorem sampledWord_data {cfg : Params} (d : BitVec 10) (hh : HeaderClean cfg) :
    sampledWord cfg d &&& Config.diDataMask = d.setWidth 16 &&& Config.diDataMask := by
  apply BitVec.eq_of_getLsbD_eq
  intro k hk
  by_cases hd : k ≤ 9
  · rw [BitVec.getLsbD_and, BitVec.getLsbD_and, sampledWord_dataBit d hh hd, BitVec.getLsbD_setWidth, decide_eq_true hk,
      Bool.true_and]
  · have hmask : Config.diDataMask.getLsbD k = false := by
      interval_cases k <;> rfl
    rw [BitVec.getLsbD_and, BitVec.getLsbD_and, hmask, Bool.and_false, Bool.and_false]

/-- The header bits of the frame are the header. -/
theorem sampledWord_header {cfg : Params} (d : BitVec 10) (hh : HeaderClean cfg) :
    sampledWord cfg d &&& Config.diHeaderMask = cfg.diHeader := by
  apply BitVec.eq_of_getLsbD_eq
  intro k hk
  rw [BitVec.getLsbD_and]
  by_cases hd : k ≤ 10
  · have hmask : Config.diHeaderMask.getLsbD k = false := by
      interval_cases k <;> rfl
    rw [hmask, Bool.and_false, headerClean_getLsbD hh hd]
  · have hmask : Config.diHeaderMask.getLsbD k = true := by
      interval_cases k <;> rfl
    rw [hmask, Bool.and_true, sampledWord_getLsbD d hk, decide_eq_false (by omega), BitVec.getLsbD_of_ge d k (by omega)]
    simp

/-- The frame a serial-input chip sends passes both checks, in either parity mode (R143, R144). -/
theorem sampledWord_accepted {cfg : Params} (d : BitVec 10) (hh : HeaderClean cfg) :
    headerOk cfg (sampledWord cfg d) = true ∧ parityOk cfg (sampledWord cfg d) = true := by
  have hparity : dataParity (sampledWord cfg d) = dataParity (d.setWidth 16) := by
    rw [dataParity, dataParity, sampledWord_data d hh]
  refine ⟨by rw [headerOk, sampledWord_header d hh, beq_self_eq_true], ?_⟩
  rw [parityOk, hparity, Config.diParityBit, sampledWord_parityBit d hh, sampledParity]
  cases cfg.diParityMode <;> cases dataParity (d.setWidth 16) <;> rfl

theorem unaddressed_of_din {s : State} {b : Bank} (hb : Addresses s .din b) : ∀ c, ¬Addresses s .dout c := by
  intro c hc
  have h := chipAt_of_addresses hb
  rw [chipAt_of_addresses hc] at h
  cases h

/-- A frame read of an addressed input chip returns the frame it has just sampled, and leaves it in `COMB`; every
serial-input chip has sampled (R64, R141). -/
theorem readFrame_reference {s : State} {b : Bank} (he : s.env = .reference) (hh : HeaderClean s.cfg)
    (hb : Addresses s .din b) :
    ∃ r0 r1 u, readFrame s = (.ok (sampledWord s.cfg (s.sensed.get b)), u) ∧
      u.log = (readFrameTrace r0 r1).reverse ++ s.log ∧ u.comb = sampledWord s.cfg (s.sensed.get b) ∧
      u.chips = (sampleInputs s).chips := by
  obtain ⟨t, hpulse, -, hlog, hlines, -, -, -, -, ⟨⟨hcfg, henv, -⟩, -⟩, hchips, -⟩ := loadPulse_quiet (n := 0) (.inl he)
  have hbt : Addresses t .din b := by rw [Addresses, hlines]; exact hb
  obtain ⟨r0, r1, u, hframe, -, hlog', -, -, -, -, -, ⟨⟨hcfg', -⟩, -⟩, hchips', -, hanswer⟩ :=
    frame_quiet (n := 0) (s := t) Config.diRequest0 Config.diRequest1 (.inl (henv.trans he))
  have hlatch : t.chips.lat.get b = sampledWord s.cfg (s.sensed.get b) := by
    rw [hchips, sampleInputs, setChips_chips, six_get_tabulate]
  have hcomb : combined r0 r1 = sampledWord s.cfg (s.sensed.get b) := by
    obtain ⟨h0, h1⟩ := hanswer (henv.trans he)
    simp only [referenceAnswer, chipAt_of_addresses hbt, hlatch] at h0 h1
    rw [h0, h1, combined_of_frame]
  obtain ⟨hheader, hparity⟩ := sampledWord_accepted (s.sensed.get b) hh
  refine ⟨r0, r1, u.setComb (combined r0 r1), ?_, ?_, hcomb, ?_⟩
  · rw [readFrame, andThen_ok hpulse, andThen_ok hframe, andThen_writeComb, andThen_readCfg, setComb_cfg, hcfg', hcfg,
      hcomb, hheader, hparity]
    rfl
  · rw [setComb_log, hlog', hlog, readFrameTrace, List.reverse_append, List.append_assoc]
  · rw [setComb_chips, hchips', chipsTake_unaddressed _ _ (unaddressed_of_din hbt), hchips]

/-- A bit read of an addressed input chip returns the sensed bit (R64, R146). -/
theorem opReadBit_reference {s : State} {b : Bank} {k : Byte} (hk : k.toNat ≤ 9) (he : s.env = .reference)
    (hh : HeaderClean s.cfg) (hb : Addresses s .din b) :
    ∃ r0 r1 u, opReadBit k s = (.ok ((s.sensed.get b).getLsbD k.toNat), u) ∧
      u.log = (readFrameTrace r0 r1).reverse ++ s.log ∧ u.comb = sampledWord s.cfg (s.sensed.get b) ∧
      u.chips = (sampleInputs s).chips := by
  obtain ⟨r0, r1, u, hread, hrest⟩ := readFrame_reference he hh hb
  refine ⟨r0, r1, u, ?_, hrest⟩
  rw [opReadBit, Config.indexMax, decide_eq_true hk, require_true, andThen_ret, andThen_ok hread,
    sampledWord_dataBit _ hh hk]
  rfl

/-- A command whose operation reads one frame of an addressed input chip completes with the events of a frame read. -/
theorem completes_frameRead {i : Instr} {m : Op Value} {s u : State} {v : Value} {r0 r1 : Byte}
    (hexec : exec i s = runCommand i m s) (he : s.env = .reference) (hrun : m (s.begin i) = (.ok v, u))
    (hlog : u.log = (readFrameTrace r0 r1).reverse ++ s.log) (hchips : u.chips = (sampleInputs s).chips) :
    ∃ t, Completes i s v (readFrameTrace r0 r1) t ∧ t.comb = u.comb ∧
      (∀ b', t.chips.lat.get b' = sampledWord s.cfg (s.sensed.get b')) ∧ t.chips.regs = s.chips.regs ∧
      t.chips.pend = s.chips.pend := by
  have hnext := hexec.trans (runCommand_eq hrun)
  rw [settleChips_still (.inl (.inl he))] at hnext
  obtain ⟨hworld, -⟩ := instructionsLeaveTheWorldAlone i s _ hnext
  refine ⟨_, ⟨hnext, rfl, ?_, rfl, hworld⟩, rfl, ?_⟩
  · rw [State.trace, complete_log, hlog, List.reverse_append, List.reverse_reverse]
    rfl
  · rw [complete_chips, hchips]
    exact ⟨fun b' => six_get_tabulate _ b', rfl, rfl⟩

/-- Settles O30: the frame read returns what the addressed chip has just sampled. -/
theorem sensedBitIsReadBack : Obligations.SensedBitIsReadBack := by
  intro s b he hh hb
  refine ⟨fun k hk => ?bit, ?frame⟩
  case bit =>
    obtain ⟨r0, r1, u, hrun, hlog, hcomb, hchips⟩ := opReadBit_reference (s := s.begin (.diReadBit k)) hk he hh hb
    obtain ⟨t, hcomp, htcomb, hrest⟩ := completes_frameRead (m := andThen (opReadBit k) fun x => ret (.bit x)) rfl he
      (by rw [andThen_ok hrun]; rfl) hlog hchips
    exact ⟨r0, r1, t, hcomp, htcomb.trans hcomb, hrest⟩
  case frame =>
    obtain ⟨r0, r1, u, hrun, hlog, hcomb, hchips⟩ := readFrame_reference (s := s.begin .direq16) he hh hb
    obtain ⟨t, hcomp, htcomb, hrest⟩ := completes_frameRead (m := asUnit readFrame) rfl he
      (by rw [asUnit, andThen_ok hrun]; rfl) hlog hchips
    exact ⟨r0, r1, t, hcomp, htcomb.trans hcomb, hrest⟩

/-! ### The input queries on the reference responder (R186 to R188) -/

/-- A selection of a bank's input chip and a bit read: the sensed bit, and no byte of memory changed. -/
theorem selectReadBit_reference {s : State} (b : Bank) {k : Byte} (hk : k.toNat ≤ 9) (he : s.env = .reference)
    (hh : HeaderClean s.cfg) :
    ∃ u, andThen (opSelect .din b) (fun _ => opReadBit k) s = (.ok ((s.sensed.get b).getLsbD k.toNat), u) ∧
      u.chips.regs = s.chips.regs := by
  obtain ⟨t, hselect, hb, ⟨hcfg, henv, -, hsensed, -⟩, hchips⟩ := opSelect_reference .din b he
  rw [← hcfg] at hh
  obtain ⟨-, -, u, hread, -, -, hsampled⟩ := opReadBit_reference hk (henv.trans he) hh hb
  refine ⟨u, by rw [andThen_ok hselect, hread, hsensed], ?_⟩
  rw [hsampled, ← hchips]
  rfl

/-- A command that selects a bank's input chip, reads one bit and decodes it. -/
theorem completes_selectReadBit {i : Instr} {s : State} {b : Bank} {k : Byte} {n : Nat} (v : Bool → Value)
    (hk : k.toNat = n) (hn : n ≤ 9) (he : s.env = .reference) (hh : HeaderClean s.cfg)
    (hexec : exec i s = runCommand i (andThen (andThen (opSelect .din b) fun _ => opReadBit k) fun x => ret (v x)) s) :
    ∃ ev t, Completes i s (v ((s.sensed.get b).getLsbD n)) ev t ∧ SameMem s t := by
  subst hk
  obtain ⟨u, hrun, hregs⟩ := selectReadBit_reference (s := s.begin i) b hn he hh
  exact completes_undisturbed hexec he (by rw [andThen_ok hrun]; rfl) hregs

theorem toNat_inputIndex {k : Nat} (hk : k ≤ 8) : (inputIndex k).toNat = k - 1 := by
  simp only [inputIndex, BitVec.toNat_ofNat]
  omega

/-- Settles O36: each query is the selection, the bit read and the decoding of the bit. -/
theorem inputQueriesAnswerTheSensedData : Obligations.InputQueriesAnswerTheSensedData := by
  intro b s he hh
  refine ⟨fun l k hlo hhi hl => ?input, ?supply, ?thermal⟩
  case input =>
    have hexec : exec (.getInput l) s = runCommand (.getInput l) (andThen (andThen (opSelect .din b)
        fun _ => opReadBit (inputIndex k)) fun x => ret (.level (levelOfBit x))) s := by
      rw [exec, execGetInput, opGetInput, locate_logical _ hlo hhi hl, andThen_ret]
      simp only [andThen_assoc, andThen_ret]
    exact completes_selectReadBit (fun x => .level (levelOfBit x)) (toNat_inputIndex hhi) (by omega) he hh hexec
  case supply =>
    have hexec : exec (.getInputSupply b) s = runCommand (.getInputSupply b) (andThen (andThen (opSelect .din b)
        fun _ => opReadBit supplyIndex) fun x => ret (.supply (inSupply x))) s := by
      rw [exec, execGetInputSupply, opGetInputSupply]
      simp only [andThen_assoc, andThen_ret]
    exact completes_selectReadBit (fun x => .supply (inSupply x)) rfl (by decide) he hh hexec
  case thermal =>
    have hexec : exec (.getInputThermal b) s = runCommand (.getInputThermal b) (andThen (andThen (opSelect .din b)
        fun _ => opReadBit thermalIndex) fun x => ret (.thermal (inThermal x))) s := by
      rw [exec, execGetInputThermal, opGetInputThermal]
      simp only [andThen_assoc, andThen_ret]
    exact completes_selectReadBit (fun x => .thermal (inThermal x)) rfl (by decide) he hh hexec

/-! ### Operations that keep within a set of actions (R11 to R14) -/

/-- A set of actions: the lines that may be driven, the two-byte exchanges that may be sent, and the registers that a
failed configuration write may lose (R121). -/
structure Actions where
  drives : Line → Prop
  sends : Byte → Byte → Prop
  loses : Byte → Prop

/-- Every action. -/
def Actions.all : Actions := ⟨fun _ => True, fun _ _ => True, fun _ => True⟩

/-- An error an operation raises of its own accord, not for a failed drive or exchange (R200 to R206). -/
def ErrKind.isCheck : ErrKind → Bool
  | .illegalInput => true
  | .illegalOutput => true
  | .unsupportedLevel => true
  | .diParity => true
  | .notPresent => false
  | .transport _ => false

/-- The operations that sequencing makes of the actions of a set, the checks, and the block's own registers. -/
inductive Within (A : Actions) : {α : Type} → Op α → Prop where
  | ret {α : Type} (a : α) : Within A (ret a)
  | raise {α : Type} {e : ErrKind} (h : e.isCheck = true) : Within A (raise (α := α) e)
  | andThen {α β : Type} {m : Op α} {k : α → Op β} (hm : Within A m) (hk : ∀ a, Within A (k a)) :
      Within A (andThen m k)
  | losing {α : Type} {m : Op α} {r : Byte} (hr : A.loses r) (hm : Within A m) :
      Within A (onError m (loseRegister r))
  | drive {x : Line} (hx : A.drives x) (b : Bool) : Within A (drive x b)
  | settle : Within A settle
  | xfer {t0 t1 : Byte} (h : A.sends t0 t1) : Within A (xfer t0 t1)
  | writeComb (c : Word) : Within A (writeComb c)
  | writeCfgtmp (v : Byte) : Within A (writeCfgtmp v)
  | readCfg : Within A readCfg

namespace Within

variable {A : Actions}

theorem map {α β : Type} {m : Op α} (hm : Within A m) (f : α → β) :
    Within A (Machine.andThen m fun a => Machine.ret (f a)) := hm.andThen fun a => .ret (f a)

theorem asUnit {α : Type} {m : Op α} (hm : Within A m) : Within A (Machine.asUnit m) := hm.map fun _ => Value.unit

theorem require (ok : Bool) {e : ErrKind} (h : e.isCheck = true) : Within A (Machine.require ok e) := by
  cases ok
  · exact .raise h
  · exact .ret ()

theorem forEach {α : Type} {f : α → Op Unit} : ∀ {xs : List α}, (∀ x ∈ xs, Within A (f x)) → Within A (Machine.forEach xs f)
  | [], _ => .ret ()
  | x :: xs, h => (h x (by simp)).andThen fun _ => forEach fun y hy => h y (by simp [hy])

/-! The shared sequences (R102, R111 to R113, R121, R141) -/

theorem frame (hcs : A.drives .cs) {t0 t1 : Byte} (h : A.sends t0 t1) : Within A (frame t0 t1) :=
  (drive hcs false).andThen fun _ => settle.andThen fun _ => (xfer h).andThen fun r =>
    settle.andThen fun _ => (drive hcs true).andThen fun _ => settle.andThen fun _ => .ret r

theorem regWrite (hcs : A.drives .cs) {r v : Byte} (h : A.sends r v) : Within A (regWrite r v) :=
  (frame hcs h).map fun _ => ()

theorem cfgWrite (hcs : A.drives .cs) {r v : Byte} (h : A.sends r v) (hr : A.loses r) : Within A (cfgWrite r v) :=
  losing hr (regWrite hcs h)

theorem regRead (hcs : A.drives .cs) {r : Byte} (h : A.sends (readRequest r) 0x00) (hnop : A.sends 0x00 0x00) :
    Within A (regRead r) :=
  (frame hcs h).andThen fun _ => (frame hcs hnop).andThen fun resp => readCfg.map fun cfg => respByte cfg resp

theorem readFrame (hload : A.drives .load) (hcs : A.drives .cs) (h : A.sends Config.diRequest0 Config.diRequest1) :
    Within A readFrame :=
  ((drive hload false).andThen fun _ => settle.andThen fun _ => drive hload true).andThen fun _ =>
    (frame hcs h).andThen fun _ => (writeComb _).andThen fun _ => readCfg.andThen fun _ =>
      (require _ rfl).andThen fun _ => (require _ rfl).map fun _ => _

theorem opSelect (h : ∀ x, A.drives x) (d : Direction) (b : Bank) : Within A (opSelect d b) :=
  (drive (h .a0) _).andThen fun _ => (drive (h .a1) _).andThen fun _ => (drive (h .a2) _).andThen fun _ =>
    (drive (h .a3) _).andThen fun _ => settle

/-! The operations of the components (R102, R115, R116, R121 to R124, R146) -/

theorem checkPort (p : Byte) : Within A (checkPort p) := require _ rfl

theorem opWritePort (hcs : A.drives .cs) (l : Level) {p : Byte} (h : ∀ v, A.sends (portReg p) v) :
    Within A (opWritePort l p) := by
  refine (checkPort p).andThen fun _ => ?_
  cases levelData? l with
  | none => exact .raise rfl
  | some data => exact regWrite hcs (h data)

theorem opReadPort (hcs : A.drives .cs) {p : Byte} (h : A.sends (readRequest (portReg p)) 0x00)
    (hnop : A.sends 0x00 0x00) : Within A (opReadPort p) :=
  (checkPort p).andThen fun _ => (regRead hcs h hnop).map levelOfByte

theorem opReadBit (hload : A.drives .load) (hcs : A.drives .cs) (h : A.sends Config.diRequest0 Config.diRequest1)
    (index : Byte) : Within A (opReadBit index) :=
  (require _ rfl).andThen fun _ => (readFrame hload hcs h).map fun c => c.getLsbD index.toNat

theorem locate (l : Byte) {e : ErrKind} (h : e.isCheck = true) : Within A (locate l e) := by
  refine (require _ h).andThen fun _ => ?_
  cases bankOfOrdinal? (logicalBankOrdinal l) with
  | none => exact .raise h
  | some b => exact .ret (b, logicalLocal l)

/-! The output queries: they drive any line and send the read requests of ports and the no-operation -/

section Queries

variable (hdrives : ∀ x, A.drives x) (hread : ∀ r, A.sends (readRequest r) 0x00) (hnop : A.sends 0x00 0x00)
include hdrives hread hnop

theorem readPort (p : Byte) : Within A (Machine.opReadPort p) := opReadPort (hdrives .cs) (hread _) hnop

theorem readTwo (p q : Byte) : Within A (readTwo p q) :=
  (readPort hdrives hread hnop p).andThen fun l => (readPort hdrives hread hnop q).map fun m => (l, m)

theorem readSupply : Within A readSupply :=
  (readTwo hdrives hread hnop 20 21).andThen fun ls => readCfg.map fun cfg => outSupply cfg.outSupply ls.1 ls.2

theorem opGetOutputState (a : Byte) : Within A (opGetOutputState a) :=
  (locate a rfl).andThen fun _ => (opSelect hdrives _ _).andThen fun _ => (readSupply hdrives hread hnop).andThen fun _ =>
    (require _ rfl).andThen fun _ => (readPort hdrives hread hnop _).map lineOfLevel

theorem opGetOutputSupply (b : Bank) : Within A (opGetOutputSupply b) :=
  (opSelect hdrives _ _).andThen fun _ => (readSupply hdrives hread hnop).map outSupplyState

theorem opGetOutputThermal (b : Bank) : Within A (opGetOutputThermal b) :=
  (opSelect hdrives _ _).andThen fun _ => (readTwo hdrives hread hnop 22 23).andThen fun ls =>
    readCfg.map fun cfg => outThermal cfg.outThermal ls.1 ls.2

end Queries

/-! The input queries: after the selection they drive `LOAD` and `CS` and send the request frame -/

section Inputs

variable (hdrives : ∀ x, A.drives x) (hrequest : A.sends Config.diRequest0 Config.diRequest1)
include hdrives hrequest

theorem readBit (index : Byte) : Within A (Machine.opReadBit index) := opReadBit (hdrives .load) (hdrives .cs) hrequest index

theorem opGetInput (a : Byte) : Within A (opGetInput a) :=
  (locate a rfl).andThen fun _ => (opSelect hdrives _ _).andThen fun _ => (readBit hdrives hrequest _).map levelOfBit

theorem opGetInputSupply (b : Bank) : Within A (opGetInputSupply b) :=
  (opSelect hdrives _ _).andThen fun _ => (readBit hdrives hrequest _).map inSupply

theorem opGetInputThermal (b : Bank) : Within A (opGetInputThermal b) :=
  (opSelect hdrives _ _).andThen fun _ => (readBit hdrives hrequest _).map inThermal

end Inputs

/-! The operations that write a configuration (R121 to R124, R181) -/

section Configuration

variable (hcs : A.drives .cs) (hsends : ∀ r v, A.sends r v) (hloses : ∀ r, A.loses r)
include hcs hsends

theorem opWakeup (enableIrq : Bool) : Within A (opWakeup enableIrq) := regWrite hcs (hsends _ _)

include hloses

theorem opCfgBits (bits : BitVec 2) (p : Byte) : Within A (opCfgBits bits p) :=
  (checkPort p).andThen fun _ => (regRead hcs (hsends _ _) (hsends _ _)).andThen fun _ => (writeCfgtmp _).andThen fun _ =>
    (writeCfgtmp _).andThen fun _ => cfgWrite hcs (hsends _ _) (hloses _)

theorem opCfgOutput (l : Level) (p : Byte) : Within A (opCfgOutput l p) :=
  (opWritePort hcs l fun _ => hsends _ _).andThen fun _ => opCfgBits hcs hsends hloses _ p

theorem opInit (hdrives : ∀ x, A.drives x) : Within A opInit :=
  forEach fun _ _ => (opSelect hdrives _ _).andThen fun _ =>
    (forEach fun p _ => opCfgOutput hcs hsends hloses .hiz p).andThen fun _ =>
    (forEach fun p _ => opCfgBits hcs hsends hloses (fieldInput true) p).andThen fun _ =>
    (forEach fun p _ => opCfgBits hcs hsends hloses (fieldInput false) p).andThen fun _ =>
    (forEach fun p _ => opCfgBits hcs hsends hloses (fieldInput true) p).andThen fun _ =>
    readCfg.andThen fun cfg => opWakeup hcs hsends cfg.initEnableIrq

end Configuration

theorem opSetOutput (hdrives : ∀ x, A.drives x) (l : Level) (a : Byte) (h : ∀ k v, A.sends (portReg (enablePort k)) v) :
    Within A (opSetOutput l a) :=
  (locate a rfl).andThen fun _ => (opSelect hdrives _ _).andThen fun _ => opWritePort (hdrives .cs) l (h _)

end Within

/-! ### The reference responder fails nothing (R61) -/

/-- With the reference responder an operation's own checks are the only errors, and it stays the environment. -/
theorem Within.reference {A : Actions} {α : Type} {m : Op α} (hm : Within A m) :
    Triple (fun s => s.env = .reference) m (fun _ s => s.env = .reference)
      (fun e s => e.isCheck = true ∧ s.env = .reference) := by
  induction hm with
  | ret a => exact triple_ret fun _ h => h
  | raise he => exact triple_raise fun _ h => ⟨he, h⟩
  | andThen _ _ ihm ihk => exact triple_andThen ihm ihk
  | losing _ _ ih => exact triple_onError ih fun _ s ⟨he, h⟩ => ⟨he, by simpa [loseRegister_same] using h⟩
  | @drive x _ b =>
    intro s hs
    rcases drive_cases x b s with ⟨t, ht, hblock, -⟩ | ⟨d, t, -, -, -, horacle⟩
    · simpa [ht, hblock] using hs
    · rw [hs] at horacle
      cases horacle
  | settle => exact fun _ h => h
  | @xfer t0 t1 _ =>
    intro s hs
    rcases xfer_cases t0 t1 s with ⟨r0, r1, t, ht, hblock, -⟩ | ⟨d0, d1, t, -, -, -, horacle⟩
    · simpa [ht, hblock] using hs
    · rw [hs] at horacle
      cases horacle
  | writeComb c => exact fun _ h => h
  | writeCfgtmp v => exact fun _ h => h
  | readCfg => exact fun _ h => h

/-- Every instruction runs an operation whose errors are checks, and failed drives and exchanges. -/
theorem exec_within_all (i : Instr) :
    ∃ m : Op Value, Within .all m ∧ ∀ s, exec i s = runCommand i m s := by
  have hdrives : ∀ x, Actions.all.drives x := fun _ => trivial
  have hsends : ∀ r v, Actions.all.sends r v := fun _ _ => trivial
  have hloses : ∀ r, Actions.all.loses r := fun _ => trivial
  have hread : ∀ r, Actions.all.sends (readRequest r) 0x00 := fun _ => trivial
  have hframe : ∀ t0 t1, Within .all (asUnit (frame t0 t1)) := fun _ _ => (Within.frame trivial trivial).asUnit
  have hselect : ∀ d b, Within .all (asUnit (opSelect d b)) := fun d b => (Within.opSelect hdrives d b).asUnit
  cases i with
  | init => exact ⟨_, (Within.opInit trivial hsends hloses hdrives).asUnit, fun _ => rfl⟩
  | setOutput l a => exact ⟨_, (Within.opSetOutput hdrives l a fun _ _ => trivial).asUnit, fun _ => rfl⟩
  | getOutputState a => exact ⟨_, (Within.opGetOutputState hdrives hread trivial a).map Value.line, fun _ => rfl⟩
  | getOutputSupply b => exact ⟨_, (Within.opGetOutputSupply hdrives hread trivial b).map Value.supply, fun _ => rfl⟩
  | getOutputThermal b => exact ⟨_, (Within.opGetOutputThermal hdrives hread trivial b).map Value.thermal, fun _ => rfl⟩
  | getInput a => exact ⟨_, (Within.opGetInput hdrives trivial a).map Value.level, fun _ => rfl⟩
  | getInputSupply b => exact ⟨_, (Within.opGetInputSupply hdrives trivial b).map Value.supply, fun _ => rfl⟩
  | getInputThermal b => exact ⟨_, (Within.opGetInputThermal hdrives trivial b).map Value.thermal, fun _ => rfl⟩
  | select d b => exact ⟨_, hselect d b, fun _ => rfl⟩
  | peWritePort l p => exact ⟨_, (Within.opWritePort trivial l fun _ => trivial).asUnit, fun _ => rfl⟩
  | peReadPort p => exact ⟨_, (Within.opReadPort trivial trivial trivial).map Value.level, fun _ => rfl⟩
  | peCfgOutput l p => exact ⟨_, (Within.opCfgOutput trivial hsends hloses l p).asUnit, fun _ => rfl⟩
  | peCfgInput u p => exact ⟨_, (Within.opCfgBits trivial hsends hloses (fieldInput u) p).asUnit, fun _ => rfl⟩
  | peCfgBits b p => exact ⟨_, (Within.opCfgBits trivial hsends hloses b p).asUnit, fun _ => rfl⟩
  | peWakeup u => exact ⟨_, (Within.opWakeup trivial hsends u).asUnit, fun _ => rfl⟩
  | diReadBit n => exact ⟨_, (Within.opReadBit trivial trivial trivial n).map Value.bit, fun _ => rfl⟩
  | fCfgWrite q c => exact ⟨_, (Within.cfgWrite trivial trivial trivial).asUnit, fun _ => rfl⟩
  | direq16 => exact ⟨_, (Within.readFrame trivial trivial trivial).asUnit, fun _ => rfl⟩
  | fPortWrite | fPortReadReq | fNop | fCfgReadReq | fGcfgWrite => exact ⟨_, hframe _ _, fun _ => rfl⟩
  | selOut1 | selOut2 | selOut3 | selOut4 | selOut5 | selOut6 => exact ⟨_, hselect .dout _, fun _ => rfl⟩
  | selIn1 | selIn2 | selIn3 | selIn4 | selIn5 | selIn6 => exact ⟨_, hselect .din _, fun _ => rfl⟩

theorem rspStatus_ok (v : Value) : rspStatus (rspWord (.ok v)) = 0 := by
  simp only [rspStatus, rspWord]
  generalize valueCode v = c
  revert c
  decide

theorem rspStatus_check {e : ErrKind} (h : e.isCheck = true) : rspStatus (rspWord (.err e)) ≤ 4 := by
  cases e with
  | notPresent => cases h
  | transport c => cases h
  | illegalInput => decide
  | illegalOutput => decide
  | unsupportedLevel => decide
  | diParity => decide

/-- Settles O48: the errors left are the checks, whose status is at most 4. -/
theorem referenceResponderNeverFails : Obligations.ReferenceResponderNeverFails := by
  intro i s t he hexec
  obtain ⟨m, hm, hrun⟩ := exec_within_all i
  have hresult := hm.reference (s.begin i) he
  rcases hu : m (s.begin i) with ⟨v | e, u⟩ <;> rw [hu] at hresult <;> rw [hrun, runCommand_eq hu] at hexec <;>
    obtain rfl := Host.Outcome.next.inj hexec
  · refine ⟨_, rfl, ?_⟩
    rw [rspStatus_ok]
    decide
  · have hstatus := rspStatus_check hresult.1
    exact ⟨_, rfl, by bv_omega, by bv_omega⟩

/-! ### What the actions of a set keep -/

/-- `P` is kept by every action of the set. -/
structure KeptWithin (A : Actions) (P : State → Prop) : Prop where
  drive : ∀ {x}, A.drives x → ∀ b, Keeps P (drive x b)
  settle : Keeps P settle
  xfer : ∀ {t0 t1}, A.sends t0 t1 → Keeps P (xfer t0 t1)
  writeComb : ∀ c, Keeps P (writeComb c)
  writeCfgtmp : ∀ v, Keeps P (writeCfgtmp v)
  loseRegister : ∀ {r}, A.loses r → ∀ s, P s → P (loseRegister r s)

theorem KeptWithin.keeps {A : Actions} {P : State → Prop} (hP : KeptWithin A P) {α : Type} {m : Op α}
    (hm : Within A m) : Keeps P m := by
  induction hm with
  | ret a => exact triple_ret fun _ h => h
  | raise _ => exact triple_raise fun _ h => h
  | andThen _ _ ihm ihk => exact triple_andThen ihm ihk
  | losing hr _ ih => exact triple_onError ih fun _ s h => hP.loseRegister hr s h
  | drive hx b => exact hP.drive hx b
  | settle => exact hP.settle
  | xfer h => exact hP.xfer h
  | writeComb c => exact hP.writeComb c
  | writeCfgtmp v => exact hP.writeCfgtmp v
  | readCfg => exact fun _ h => h

/-- The port expanders of `d` hold what those of `c` hold: every byte of memory, every pending read value. -/
abbrev SameExpanders (c d : Chips) : Prop := d.regs = c.regs ∧ d.pend = c.pend

/-- A drive, failed or not, writes no register of a port expander and no pending read value (R62, R64). -/
theorem drive_keeps_expanders (x : Line) (b : Bool) (c : Chips) :
    Keeps (fun s => SameExpanders c s.chips) (drive x b) := by
  intro s hs
  have hchoice := (driveChoice_same x b s).2
  rcases drive_cases x b s with ⟨t, ht, -, rfl⟩ | ⟨d, t, ht, -, rfl, -⟩ <;> rw [ht]
  · cases x <;> cases b <;> simpa [chipsSeeDrive, sampleInputs, hchoice] using hs
  · cases x <;> simpa [chipsSeeFailedDrive, disturbLatches, hchoice] using hs

/-- The actions of the reads of port expanders: read requests and the no-operation (R62). -/
def Actions.reads : Actions := ⟨fun _ => True, fun t0 _ => t0.getLsbD 7 = true ∨ t0 = 0x00, fun _ => False⟩

/-- Reading keeps every byte of memory, whatever the environment does (R47). -/
theorem keptWithin_reads_regs (c : Chips) : KeptWithin .reads fun s => s.chips.regs = c.regs where
  drive {x} _ b s hs := by
    have hkeep := drive_keeps_expanders x b s.chips s ⟨rfl, rfl⟩
    rcases hd : drive x b s with ⟨_ | e, t⟩ <;> rw [hd] at hkeep <;> exact hkeep.1.trans hs
  settle _ h := h
  xfer {t0 t1} hread s hs := by
    have hchoice := (xferChoice_same t0 t1 s).2
    rcases xfer_cases t0 t1 s with ⟨r0, r1, t, ht, -, rfl, -⟩ | ⟨d0, d1, t, ht, -, rfl, -⟩ <;> rw [ht]
    · simpa [chipsTake_regs t1 _ hread, hchoice] using hs
    · simpa [chipsMiss_keeps, hchoice] using hs
  writeComb _ _ h := h
  writeCfgtmp _ _ h := h
  loseRegister h := h.elim

/-- The actions of a frame read once its chip is selected: no select line is driven. -/
def Actions.frameRead : Actions := ⟨fun x => x = .load ∨ x = .cs, fun _ _ => True, fun _ => False⟩

/-- With an input chip selected and the select lines left alone, nothing reaches a port expander (R41, R62). -/
theorem keptWithin_frameRead_expanders (c : Chips) (b : Bank) :
    KeptWithin .frameRead fun s => Addresses s .din b ∧ SameExpanders c s.chips where
  drive {x} hx l s hs := by
    have hkeep := drive_keeps_expanders x l c s hs.2
    have haddr (y : Bool) : (s.lines.set x y).address = s.lines.address := by
      rcases hx with rfl | rfl <;> rfl
    rcases drive_cases x l s with ⟨t, ht, hblock, -⟩ | ⟨d, t, ht, hblock, -⟩ <;> rw [ht] at hkeep ⊢ <;>
      exact ⟨by simpa [Addresses, hblock, haddr] using hs.1, hkeep⟩
  settle _ h := h
  xfer {t0 t1} _ s hs := by
    obtain ⟨hb, hexpanders⟩ := hs
    obtain ⟨hsame, hchoice⟩ := xferChoice_same t0 t1 s
    have hun (e : Event) : ∀ b', ¬Addresses ((xferChoice t0 t1 s).2.emit e) .dout b' :=
      unaddressed_of_din (b := b) (by simpa [Addresses, hsame] using hb)
    rcases xfer_cases t0 t1 s with ⟨r0, r1, t, ht, ⟨-, hlines, -⟩, rfl, -⟩ | ⟨d0, d1, t, ht, ⟨-, hlines, -⟩, rfl, -⟩ <;>
      rw [ht] <;> refine ⟨(congrArg Lines.address hlines).trans hb, ?_⟩
    · simpa [chipsTake_unaddressed t0 t1 (hun _), hchoice] using hexpanders
    · simpa [chipsMiss_unaddressed t0 (hun _), hchoice] using hexpanders
  writeComb _ _ h := h
  writeCfgtmp _ _ h := h
  loseRegister h := h.elim

/-! ### The instructions that read or select (R47) -/

/-- A drive sets the one latch, and its failure leaves the port expanders alone all the same. -/
theorem drive_sets_line (x : Line) (v : Bool) (l : Lines) (c : Chips) :
    Triple (fun s => s.lines = l ∧ SameExpanders c s.chips) (drive x v)
      (fun _ s => s.lines = l.set x v ∧ SameExpanders c s.chips) (fun _ s => SameExpanders c s.chips) := by
  rintro s ⟨hl, hs⟩
  have hkeep := drive_keeps_expanders x v c s hs
  rcases drive_cases x v s with ⟨t, ht, ⟨-, hlines, -⟩, -⟩ | ⟨d, t, ht, -⟩ <;> rw [ht] at hkeep ⊢
  · exact ⟨by rw [hlines, setLine_lines, emit_lines, hl], hkeep⟩
  · exact hkeep

/-- A selection leaves the port expanders alone, and when it succeeds its chip is addressed (R102). -/
theorem opSelect_keeps_expanders (d : Direction) (b : Bank) (c : Chips) :
    Triple (fun s => SameExpanders c s.chips) (opSelect d b)
      (fun _ s => Addresses s d b ∧ SameExpanders c s.chips) (fun _ s => SameExpanders c s.chips) := by
  intro s hs
  have hselect : Triple (fun t => t.lines = s.lines ∧ SameExpanders c t.chips) (opSelect d b)
      (fun _ t => t.lines = s.lines.withAddress (chipAddr d b) ∧ SameExpanders c t.chips)
      (fun _ t => SameExpanders c t.chips) :=
    triple_andThen (drive_sets_line .a0 _ _ c) fun _ => triple_andThen (drive_sets_line .a1 _ _ c) fun _ =>
      triple_andThen (drive_sets_line .a2 _ _ c) fun _ => triple_andThen (drive_sets_line .a3 _ _ c) fun _ _ h => h
  exact triple_weaken hselect (fun _ h => h)
    (fun _ t ⟨hl, hc⟩ => ⟨by rw [Addresses, hl, address_withAddress], hc⟩) (fun _ _ h => h) s ⟨rfl, hs⟩

/-- A bit read of a bank's input chip leaves the port expanders alone, wherever it stops. -/
theorem selectReadBit_keeps_expanders {α : Type} (b : Bank) (k : Byte) (f : Bool → α) (c : Chips) :
    Keeps (fun s => SameExpanders c s.chips)
      (andThen (opSelect .din b) fun _ => andThen (opReadBit k) fun x => ret (f x)) := by
  have hread : Within .frameRead (andThen (opReadBit k) fun x => ret (f x)) :=
    (Within.opReadBit (A := .frameRead) (.inl rfl) (.inr rfl) trivial k).map f
  exact triple_andThen (opSelect_keeps_expanders .din b c) fun _ =>
    triple_weaken ((keptWithin_frameRead_expanders c b).keeps hread) (fun _ h => h) (fun _ _ h => h.2) (fun _ _ h => h.2)

/-- The translation of a logical address touches nothing (R161, R162). -/
theorem locate_keeps (P : State → Prop) (l : Byte) (e : ErrKind) : Keeps P (locate l e) := by
  refine triple_andThen (R := fun _ => P) (triple_require (fun _ _ h => h) fun _ _ h => h) fun _ => ?_
  cases bankOfOrdinal? (logicalBankOrdinal l) with
  | none => exact triple_raise fun _ h => h
  | some b => exact triple_ret fun _ h => h

/-- What an instruction's operation keeps of the chips the instruction keeps, in a command the rules describe (R244). -/
theorem exec_keeps_chips {C : Chips → Prop} {i : Instr} {m : Op Value} {s t : State}
    (hrun : exec i s = runCommand i m s) (hm : Keeps (fun s => C s.chips) m) (hrules : ChipsFollowRules s)
    (hs : C s.chips) (hexec : exec i s = .next t) : C t.chips := by
  rcases hu : m (s.begin i) with ⟨r, u⟩
  rw [hrun, runCommand_eq hu, settleChips_still (.inl hrules)] at hexec
  rw [← Host.Outcome.next.inj hexec, complete_chips]
  exact hm.after (s := s.begin i) hs hu

/-- The three queries of an input chip. -/
def readsInput : Instr → Bool
  | .getInput _ => true
  | .getInputSupply _ => true
  | .getInputThermal _ => true
  | _ => false

/-- The queries of an input chip leave the port expanders alone, wherever they stop (R47). -/
theorem readsInput_keeps_expanders {i : Instr} (h : readsInput i = true) (c : Chips) :
    ∃ m : Op Value, (∀ s, exec i s = runCommand i m s) ∧ Keeps (fun s => SameExpanders c s.chips) m := by
  have hret {α : Type} {m : Op α} (f : α → Value) (hm : Keeps (fun s => SameExpanders c s.chips) m) :
      Keeps (fun s => SameExpanders c s.chips) (andThen m fun x => ret (f x)) :=
    triple_andThen hm fun _ => triple_ret fun _ h => h
  unfold readsInput at h
  split at h
  · exact ⟨_, fun _ => rfl, hret .level (triple_andThen (locate_keeps _ _ _) fun _ =>
      selectReadBit_keeps_expanders _ _ _ c)⟩
  · exact ⟨_, fun _ => rfl, hret .supply (selectReadBit_keeps_expanders _ _ _ c)⟩
  · exact ⟨_, fun _ => rfl, hret .thermal (selectReadBit_keeps_expanders _ _ _ c)⟩
  · cases h

/-- The other instructions that store nothing send read requests and the no-operation (R47). -/
theorem storesNothing_reads {i : Instr} (h : StoresNothing i) (hi : readsInput i = false) :
    ∃ m : Op Value, (∀ s, exec i s = runCommand i m s) ∧ Within .reads m := by
  have hdrives : ∀ x, Actions.reads.drives x := fun _ => trivial
  have hread : ∀ r, Actions.reads.sends (readRequest r) 0x00 := fun r => .inl (readRequest_isRequest r)
  have hnop : Actions.reads.sends 0x00 0x00 := .inr rfl
  cases h with
  | outputState l => exact ⟨_, fun _ => rfl, (Within.opGetOutputState hdrives hread hnop l).map Value.line⟩
  | outputSupply b => exact ⟨_, fun _ => rfl, (Within.opGetOutputSupply hdrives hread hnop b).map Value.supply⟩
  | outputThermal b => exact ⟨_, fun _ => rfl, (Within.opGetOutputThermal hdrives hread hnop b).map Value.thermal⟩
  | input l => cases hi
  | inputSupply b => cases hi
  | inputThermal b => cases hi
  | select d b => exact ⟨_, fun _ => rfl, (Within.opSelect hdrives d b).asUnit⟩
  | selCode d b =>
    refine ⟨asUnit (opSelect d b), fun s => ?_, (Within.opSelect hdrives d b).asUnit⟩
    cases d <;> cases b <;> rfl
  | readPort p => exact ⟨_, fun _ => rfl, (Within.readPort hdrives hread hnop p).map Value.level⟩
  | portReadReq p => exact ⟨_, fun _ => rfl, (Within.frame trivial (hread _)).asUnit⟩
  | cfgReadReq q => exact ⟨_, fun _ => rfl, (Within.frame trivial (hread _)).asUnit⟩
  | nop => exact ⟨_, fun _ => rfl, (Within.frame trivial hnop).asUnit⟩

/-- Settles O55: an input query reaches no port expander, and any other of these instructions sends it no write. -/
theorem readsStoreNothing : Obligations.ReadsStoreNothing := by
  intro i s t hstores hrules hexec
  cases hi : readsInput i with
  | true =>
    obtain ⟨m, hrun, hm⟩ := readsInput_keeps_expanders hi s.chips
    obtain ⟨hregs, hpend⟩ := exec_keeps_chips (C := SameExpanders s.chips) (hrun s) hm hrules ⟨rfl, rfl⟩ hexec
    exact ⟨hregs, fun _ => hpend⟩
  | false =>
    obtain ⟨m, hrun, hm⟩ := storesNothing_reads hstores hi
    refine ⟨exec_keeps_chips (C := fun d => d.regs = s.chips.regs) (hrun s) ((keptWithin_reads_regs s.chips).keeps hm)
      hrules rfl hexec, ?_⟩
    rintro (⟨l, rfl⟩ | ⟨b, rfl⟩ | ⟨b, rfl⟩) <;> cases hi

/-! ### The registers of one chip as a function, and what `INIT` does to it (R181) -/

/-- The contents of one port expander's registers. -/
abbrev Regs := RegAddr → Byte

/-- A port register set (R115). -/
def setPort (p v : Byte) (f : Regs) : Regs := Function.update f (regOf (portReg p)) v

/-- The configuration field of a port set, the other fields of its byte kept (R120, R121). -/
def setField (bits : BitVec 2) (p : Byte) (f : Regs) : Regs :=
  Function.update f (regOf (cfgReg p)) (updateField (f (regOf (cfgReg p))) (cfgOffset p) bits)

/-- What `INIT` makes of the registers of a bank's chip (R181). -/
def initRegs (enableIrq : Bool) (f : Regs) : Regs :=
  let outputs := enablePorts.foldl (fun g p => setField fieldOutput p (setPort p 0x00 g)) f
  let status := statusPorts.foldl (fun g p => setField (fieldInput true) p g) outputs
  let supply := supplyPorts.foldl (fun g p => setField (fieldInput false) p g) status
  let thermal := thermalPorts.foldl (fun g p => setField (fieldInput true) p g) supply
  Function.update thermal (regOf Config.peGcfgReg) (wakeByte enableIrq)

/-- Writing the four fields of a configuration byte leaves nothing of the old byte (R120). -/
theorem updateField_all (c : Byte) (w x y z : BitVec 2) :
    updateField (updateField (updateField (updateField c 0 w) 2 x) 4 y) 6 z = z ++ y ++ x ++ w := by
  apply BitVec.eq_of_getLsbD_eq
  intro i hi
  change _ = BitVec.getLsbD (z ++ y ++ x ++ w) i
  simp only [BitVec.getLsbD_append]
  interval_cases i <;> simp [updateField]

theorem initRegs_gcfg (u : Bool) (f : Regs) : initRegs u f 0x04 = if u then 0x81 else 0x01 := rfl

theorem initRegs_cfg (u : Bool) (f : Regs) :
    initRegs u f 0x09 = 0x55 ∧ initRegs u f 0x0A = 0x55 ∧ initRegs u f 0x0B = 0xFF ∧ initRegs u f 0x0C = 0xFF ∧
      initRegs u f 0x0D = 0xFA :=
  ⟨updateField_all (f 0x09) _ _ _ _, updateField_all (f 0x0A) _ _ _ _, updateField_all (f 0x0B) _ _ _ _,
    updateField_all (f 0x0C) _ _ _ _, updateField_all (f 0x0D) _ _ _ _⟩

theorem initRegs_enable (u : Bool) (f : Regs) {r : RegAddr} (hlo : 0x24 ≤ r.toNat) (hhi : r.toNat ≤ 0x2B) :
    initRegs u f r = 0x00 := by
  have hr : r ∈ [(0x24 : RegAddr), 0x25, 0x26, 0x27, 0x28, 0x29, 0x2A, 0x2B] := by
    revert r
    decide
  fin_cases hr <;> rfl

theorem setPort_other {p v : Byte} {f : Regs} {r : RegAddr} (h : r ≠ regOf (portReg p)) : setPort p v f r = f r :=
  Function.update_of_ne h _ _

theorem setField_other {bits : BitVec 2} {p : Byte} {f : Regs} {r : RegAddr} (h : r ≠ regOf (cfgReg p)) :
    setField bits p f r = f r := Function.update_of_ne h _ _

/-- A register outside those of `initWrites` keeps its value (R181). -/
theorem initRegs_other (u : Bool) (f : Regs) {r : RegAddr} (hr : initWrites r = false) : initRegs u f r = f r := by
  have hne {q : RegAddr} (hq : initWrites q = true) : r ≠ q := by
    rintro rfl
    rw [hq] at hr
    cases hr
  have hfields {bits : BitVec 2} {ps : List Byte} (hps : ∀ p ∈ ps, initWrites (regOf (cfgReg p)) = true) (g : Regs) :
      ps.foldl (fun g p => setField bits p g) g r = g r :=
    List.foldlRecOn (motive := fun g' : Regs => g' r = g r) ps _ rfl fun g' hg' p hp =>
      (setField_other (hne (hps p hp))).trans hg'
  have houtputs : enablePorts.foldl (fun g p => setField fieldOutput p (setPort p 0x00 g)) f r = f r := by
    refine List.foldlRecOn (motive := fun g : Regs => g r = f r) enablePorts _ rfl fun g hg p hp => ?_
    have hp' : initWrites (regOf (cfgReg p)) = true ∧ initWrites (regOf (portReg p)) = true := by
      revert p
      decide
    rw [setField_other (hne hp'.1), setPort_other (hne hp'.2), hg]
  rw [initRegs, Function.update_of_ne (hne rfl), hfields (by decide), hfields (by decide), hfields (by decide), houtputs]

/-! ### Operations that transform the registers of the addressed chip, on the reference responder -/

/-- From `s` to `t` the registers of bank `b`'s port expander are transformed by `g`; the world, the frame registers and
the other port expanders' registers are as before, and the memory is canonical. -/
structure BankTransformed (b : Bank) (g : Regs → Regs) (s t : State) : Prop where
  world : SameWorld s t
  lat : t.chips.lat = s.chips.lat
  wf : memWf t.chips.regs = true
  bank : t.chips.reg b = g (s.chips.reg b)
  others : ∀ b', b' ≠ b → t.chips.reg b' = s.chips.reg b'

theorem BankTransformed.trans {b : Bank} {g h : Regs → Regs} {s t u : State} (hst : BankTransformed b g s t)
    (htu : BankTransformed b h t u) : BankTransformed b (fun f => h (g f)) s u := by
  obtain ⟨hworld, hlat, -, hbank, hothers⟩ := hst
  obtain ⟨kworld, klat, kwf, kbank, kothers⟩ := htu
  exact ⟨hworld.trans kworld, klat.trans hlat, kwf, by rw [kbank, hbank],
    fun b' hb' => (kothers b' hb').trans (hothers b' hb')⟩

/-- With the chip of bank `b` addressed, the operation succeeds, leaves it addressed and transforms its registers. -/
def Transforms (b : Bank) (m : Op Unit) (g : Regs → Regs) : Prop :=
  ∀ s, s.env = .reference → memWf s.chips.regs = true → Addresses s .dout b →
    ∃ t, m s = (.ok (), t) ∧ Addresses t .dout b ∧ BankTransformed b g s t

theorem transforms_andThen {b : Bank} {m k : Op Unit} {g h : Regs → Regs} (hm : Transforms b m g)
    (hk : Transforms b k h) : Transforms b (andThen m fun _ => k) (fun f => h (g f)) := by
  intro s he hwf hb
  obtain ⟨t, hrun, hbt, hst⟩ := hm s he hwf hb
  obtain ⟨u, hrun', hbu, htu⟩ := hk t (hst.world.env.trans he) hst.wf hbt
  exact ⟨u, by rw [andThen_ok hrun, hrun'], hbu, hst.trans htu⟩

theorem transforms_forEach {b : Bank} {α : Type} {F : α → Op Unit} {G : α → Regs → Regs} :
    ∀ {xs : List α}, (∀ x ∈ xs, Transforms b (F x) (G x)) →
      Transforms b (forEach xs F) (fun f => xs.foldl (fun g x => G x g) f)
  | [], _ => fun s _ hwf hb => ⟨s, rfl, hb, ⟨rfl, rfl, rfl, rfl, rfl⟩, rfl, hwf, rfl, fun _ _ => rfl⟩
  | x :: xs, h => transforms_andThen (h x (by simp)) (transforms_forEach fun y hy => h y (by simp [hy]))

/-- One register of a bank's chip written, seen bank by bank. -/
theorem reg_setReg_bank {c : Chips} (b : Bank) (r : RegAddr) (v : Byte) (h : memWf c.regs = true) :
    (c.setReg b r v).reg b = Function.update (c.reg b) r v ∧
      ∀ b', b' ≠ b → (c.setReg b r v).reg b' = c.reg b' := by
  refine ⟨funext fun q => ?_, fun b' hb' => funext fun q => reg_setReg_other _ _ _ _ _ _ fun hq => hb' hq.1⟩
  by_cases hq : q = r
  · rw [hq, reg_setReg_same b r v h, Function.update_self]
  · rw [reg_setReg_other _ _ _ _ _ _ fun hbq => hq hbq.2, Function.update_of_ne hq]

/-- A register write (R112). -/
theorem regWrite_transforms (b : Bank) {r : Byte} (v : Byte) (hw : r.getLsbD 7 = false) (hz : r ≠ 0x00) :
    Transforms b (regWrite r v) (fun f => Function.update f (regOf r) v) := by
  intro s he hwf hb
  obtain ⟨r0, r1, t, hrun, -, -, hlines, -, -, -, -, ⟨hworld, -⟩, hchips, -⟩ := regWrite_quiet (n := 0) r v (.inl he)
  rw [chipsTake_write v hb hw hz] at hchips
  obtain ⟨hbank, hothers⟩ := reg_setReg_bank b (regOf r) v hwf
  refine ⟨t, hrun, by rw [Addresses, hlines]; exact hb, hworld, ?_, ?_, ?_, ?_⟩ <;> rw [hchips]
  · rfl
  · exact memWf_setReg b _ v hwf
  · exact hbank
  · exact hothers

/-- The register bytes of configuration: no read request, not the no-operation, no port register (R28, R73). -/
theorem cfgReg_isWrite {p : Byte} (hhi : p.toNat ≤ 31) :
    (cfgReg p).getLsbD 7 = false ∧ cfgReg p ≠ 0x00 ∧ isPortReg (regOf (cfgReg p)) = false := by
  have hp : (cfgReg p).toNat = 8 + p.toNat / 4 := by
    simp only [cfgReg, cfgIndex, Config.peCfgBase, BitVec.toNat_add, BitVec.reduceToNat, BitVec.toNat_ushiftRight,
      Nat.shiftRight_eq_div_pow]
    omega
  refine ⟨Nat.testBit_lt_two_pow (by omega), fun h => ?_, ?_⟩
  · simp only [h, BitVec.reduceToNat] at hp
    omega
  · have hr : (regOf (cfgReg p)).toNat = 8 + p.toNat / 4 := by
      rw [regOf, BitVec.toNat_setWidth, hp]
      omega
    simp only [isPortReg, hr, Config.peWriteBase, Config.portMin, BitVec.reduceToNat, Bool.and_eq_false_iff,
      decide_eq_false_iff_not]
    omega

/-- A field of a configuration byte read, replaced and written back: the read of a configuration register returns the
stored byte, of a chip not awake too (R63, R121, log entry 14). -/
theorem opCfgBits_transforms (b : Bank) (bits : BitVec 2) {p : Byte} (hlo : 4 ≤ p.toNat) (hhi : p.toNat ≤ 31) :
    Transforms b (opCfgBits bits p) (setField bits p) := by
  intro s he hwf hb
  obtain ⟨hw, hz, hport⟩ := cfgReg_isWrite hhi
  obtain ⟨t, hread, hund, hlat⟩ := regRead_reference (r := cfgReg p) he hb (by simp [hport])
  rw [regValue_notPort s b hport] at hread
  generalize hold : s.chips.reg b (regOf (cfgReg p)) = old at hread
  have hregs : t.chips.reg = s.chips.reg := funext fun b' => funext fun r => hund.reg b' r
  obtain ⟨u, hwrite, hbu, hworld, hlat', hwf', hbank, hothers⟩ :=
    regWrite_transforms b (updateField old (cfgOffset p) bits) hw hz
      ((t.setCfgtmp old).setCfgtmp (updateField old (cfgOffset p) bits)) (hund.world.env.trans he)
      (by rw [← hund.regs] at hwf; exact hwf) (hund.address.trans hb)
  rw [setCfgtmp_chips, setCfgtmp_chips, hregs] at hbank hothers
  refine ⟨u, ?_, hbu, hund.world.trans hworld, hlat'.trans hlat, hwf', ?_, hothers⟩
  · rw [opCfgBits, checkPort, portInRange_of_bounds hlo hhi, require_true, andThen_ret, andThen_ok hread,
      andThen_writeCfgtmp, andThen_writeCfgtmp]
    exact onError_ok hwrite
  · rw [hbank, ← hold]
    rfl

/-- A high-impedance output configured: the level, then the mode (R122). -/
theorem opCfgOutput_transforms (b : Bank) {p : Byte} (hlo : 4 ≤ p.toNat) (hhi : p.toNat ≤ 31) :
    Transforms b (opCfgOutput .hiz p) (fun f => setField fieldOutput p (setPort p 0x00 f)) := by
  have hlevel : Transforms b (opWritePort .hiz p) (setPort p 0x00) := by
    obtain ⟨hw, hz⟩ := portReg_isWrite hlo hhi
    rw [opWritePort, checkPort, portInRange_of_bounds hlo hhi, require_true, andThen_ret]
    exact regWrite_transforms b 0x00 hw hz
  exact transforms_andThen hlevel (opCfgBits_transforms b fieldOutput hlo hhi)

/-- `INIT` of one bank's chip, selected by its first five events (R181). -/
theorem initBank_reference {s : State} (b : Bank) (he : s.env = .reference) (hwf : memWf s.chips.regs = true) :
    ∃ t, initBank b s = (.ok (), t) ∧ BankTransformed b (initRegs s.cfg.initEnableIrq) s t := by
  obtain ⟨t, hselect, hbt, hworld, hchips⟩ := opSelect_reference .dout b he
  have hfields (u : Bool) {ps : List Byte} (hps : ∀ p ∈ ps, 4 ≤ p.toNat ∧ p.toNat ≤ 31) :
      Transforms b (forEach ps (opCfgInput u)) (fun f => ps.foldl (fun g p => setField (fieldInput u) p g) f) :=
    transforms_forEach fun p hp => opCfgBits_transforms b (fieldInput u) (hps p hp).1 (hps p hp).2
  have houtputs : Transforms b (forEach enablePorts (opCfgOutput .hiz))
      (fun f => enablePorts.foldl (fun g p => setField fieldOutput p (setPort p 0x00 g)) f) := by
    refine transforms_forEach fun p hp => ?_
    have hrange : 4 ≤ p.toNat ∧ p.toNat ≤ 31 := by
      revert p
      decide
    exact opCfgOutput_transforms b hrange.1 hrange.2
  have hwake : Transforms b (opWakeup s.cfg.initEnableIrq)
      (fun f => Function.update f (regOf Config.peGcfgReg) (wakeByte s.cfg.initEnableIrq)) :=
    regWrite_transforms b _ (by decide) (by decide)
  have hconfigure := transforms_andThen houtputs (transforms_andThen (hfields true (ps := statusPorts) (by decide))
    (transforms_andThen (hfields false (ps := supplyPorts) (by decide)) (hfields true (ps := thermalPorts) (by decide))))
  rw [← hchips] at hwf
  obtain ⟨u, hconf, hbu, htu⟩ := hconfigure t (hworld.env.trans he) hwf hbt
  obtain ⟨v, hwoken, -, huv⟩ := hwake u (htu.world.env.trans (hworld.env.trans he)) htu.wf hbu
  have hgroup : initBank b = andThen (opSelect .dout b) fun _ => andThen
      (andThen (forEach enablePorts (opCfgOutput .hiz)) fun _ => andThen (forEach statusPorts (opCfgInput true)) fun _ =>
        andThen (forEach supplyPorts (opCfgInput false)) fun _ => forEach thermalPorts (opCfgInput true)) fun _ =>
      andThen readCfg fun cfg => opWakeup cfg.initEnableIrq := by
    simp only [initBank, andThen_assoc]
  have hst : BankTransformed b id s t :=
    ⟨hworld, by rw [hchips], hwf, by rw [hchips, id], fun _ _ => by rw [hchips]⟩
  refine ⟨v, ?_, hst.trans (htu.trans huv)⟩
  rw [hgroup, andThen_ok hselect, andThen_ok hconf, andThen_readCfg, htu.world.cfg, hworld.cfg, hwoken]

/-- `INIT` of a list of banks: their chips are configured, the others left alone. -/
theorem initBanks_reference : ∀ {banks : List Bank} {s : State}, banks.Nodup → s.env = .reference →
    memWf s.chips.regs = true → ∃ t, forEach banks initBank s = (.ok (), t) ∧ t.chips.lat = s.chips.lat ∧
      (∀ b ∈ banks, t.chips.reg b = initRegs s.cfg.initEnableIrq (s.chips.reg b)) ∧
      ∀ b, b ∉ banks → t.chips.reg b = s.chips.reg b
  | [], s, _, _, _ => ⟨s, rfl, rfl, by simp, fun _ _ => rfl⟩
  | b :: rest, s, hnodup, he, hwf => by
    obtain ⟨hb, hrest⟩ := List.nodup_cons.1 hnodup
    obtain ⟨t, hrun, ⟨hcfg, henv, -⟩, hlat, hwft, hbank, hothers⟩ := initBank_reference b he hwf
    obtain ⟨u, hrun', hlat', hin, hout⟩ := initBanks_reference hrest (henv.trans he) hwft
    refine ⟨u, by rw [forEach_cons, andThen_ok hrun, hrun'], hlat'.trans hlat, fun c hc => ?_, fun c hc => ?_⟩
    · rcases List.mem_cons.1 hc with rfl | hc
      · rw [hout c hb, hbank]
      · rw [hin c hc, hcfg, hothers c fun h => hb (h ▸ hc)]
    · rw [List.mem_cons, not_or] at hc
      rw [hout c hc.2, hothers c hc.1]

/-- Settles O38: every bank's registers are those `initRegs` makes of what they were. -/
theorem initConfiguresEveryBank : Obligations.InitConfiguresEveryBank := by
  intro s he hwf
  obtain ⟨u, hrun, hlat, hin, -⟩ := initBanks_reference (banks := allBanks) (s := s.begin .init) (by decide) he hwf
  have hcommand : asUnit opInit (s.begin .init) = (.ok .unit, u) := by
    rw [asUnit, opInit, andThen_ok hrun]
    rfl
  refine ⟨_, runCommand_eq hcommand, rfl, ?_⟩
  rw [settleChips_still (.inl (.inl he)), complete_chips]
  refine ⟨hlat, fun b => ?_⟩
  have hb : u.chips.reg b = initRegs s.cfg.initEnableIrq (s.chips.reg b) := hin b (by cases b <;> decide)
  obtain ⟨h09, h0A, h0B, h0C, h0D⟩ := initRegs_cfg s.cfg.initEnableIrq (s.chips.reg b)
  rw [hb]
  exact ⟨initRegs_gcfg _ _, h09, h0A, h0B, h0C, h0D, fun r => initRegs_enable _ _, fun r => initRegs_other _ _⟩

end Sys2Proof.Machine
end

section
/-! SUPPORT. The statements of the family encoding about the decoder: decoding an encoded instruction (O1) and encoding
a decoded one (O2), at each of the three boundaries, the words the command port accepts (O3), and sample words (O5). The
operand forms of R82 are described once, and every opcode is one of them. -/

namespace Sys2Proof

open Machine
open BitVec (extractLsb'_append_eq_of_le extractLsb'_append_eq_of_add_le extractLsb'_eq_self toNat_inj)

/-! ### Operand codes (R84) -/

theorem bankOfOrdinal?_eq_some_iff (n : Nat) (b : Bank) : bankOfOrdinal? n = some b ↔ n = bankOrdinal b := by
  constructor
  · unfold bankOfOrdinal?
    split <;> rintro ⟨⟩ <;> rfl
  · rintro rfl
    cases b <;> rfl

theorem isSome_bankOfOrdinal? : ∀ n : Nat, (bankOfOrdinal? n).isSome = (1 ≤ n && n ≤ 6)
  | 0 | 1 | 2 | 3 | 4 | 5 | 6 => rfl
  | n + 7 => by simp [bankOfOrdinal?]

theorem toNat_bankByte (b : Bank) : (bankByte b).toNat = bankOrdinal b := by cases b <;> rfl

/-- An `arg` holds the ordinal of a bank exactly when it is the bank's byte. -/
theorem bankOfOrdinal?_toNat (arg : Byte) (b : Bank) : bankOfOrdinal? arg.toNat = some b ↔ arg = bankByte b := by
  rw [bankOfOrdinal?_eq_some_iff, ← toNat_bankByte, toNat_inj]

theorem levelOfCode?_eq_some_iff (c : BitVec 2) (l : Level) : levelOfCode? c = some l ↔ c = levelCode l := by
  revert c
  cases l <;> decide

theorem isSome_levelOfCode? (c : BitVec 2) : (levelOfCode? c).isSome = (c.toNat != 3) := by
  revert c
  decide

/-- An `aux` field whose high bit is clear holds the flag of its low bit. -/
theorem eq_flagAux_iff (c : BitVec 2) (u : Bool) : c = flagAux u ↔ c.getLsbD 1 = false ∧ c.getLsbD 0 = u := by
  revert c
  cases u <;> decide

@[simp] theorem directionOfBit_directionBit (d : Direction) : directionOfBit (directionBit d) = d := by cases d <;> rfl

@[simp] theorem directionBit_directionOfBit (u : Bool) : directionBit (directionOfBit u) = u := by cases u <;> rfl

/-! ### Neighbouring fields -/

/-- Two neighbouring fields are one field. -/
theorem extractLsb'_append {w : Word} {start len start' len' : Nat} {x : BitVec len'} {y : BitVec len}
    (hx : w.extractLsb' start' len' = x) (hy : w.extractLsb' start len = y) (h : start' = start + len := by rfl) :
    w.extractLsb' start (len' + len) = x ++ y := by
  rw [← hx, ← hy, BitVec.extractLsb'_append_extractLsb'_eq_extractLsb' h]

theorem extractLsb'_one (w : Word) (k : Nat) : w.extractLsb' k 1 = BitVec.ofBool (w.getLsbD k) := by
  ext j hj
  obtain rfl : j = 0 := by omega
  simp

/-! ### The fields of a command word (R80) -/

section Fields

variable (op : BitVec 4) (aux : BitVec 2) (arg : Byte)

@[simp] theorem cmdOp_cmdWord : cmdOp (cmdWord op aux arg) = op :=
  calc cmdOp (cmdWord op aux arg)
    _ = (op ++ aux ++ (0 : BitVec 2)).extractLsb' 4 4 := extractLsb'_append_eq_of_le (by decide)
    _ = (op ++ aux).extractLsb' 2 4 := extractLsb'_append_eq_of_le (by decide)
    _ = op.extractLsb' 0 4 := extractLsb'_append_eq_of_le (by decide)
    _ = op := extractLsb'_eq_self

@[simp] theorem cmdAux_cmdWord : cmdAux (cmdWord op aux arg) = aux :=
  calc cmdAux (cmdWord op aux arg)
    _ = (op ++ aux ++ (0 : BitVec 2)).extractLsb' 2 2 := extractLsb'_append_eq_of_le (by decide)
    _ = (op ++ aux).extractLsb' 0 2 := extractLsb'_append_eq_of_le (by decide)
    _ = aux.extractLsb' 0 2 := extractLsb'_append_eq_of_add_le (by decide)
    _ = aux := extractLsb'_eq_self

@[simp] theorem cmdZero_cmdWord : cmdZero (cmdWord op aux arg) = 0 :=
  calc cmdZero (cmdWord op aux arg)
    _ = (op ++ aux ++ (0 : BitVec 2)).extractLsb' 0 2 := extractLsb'_append_eq_of_le (by decide)
    _ = (0 : BitVec 2).extractLsb' 0 2 := extractLsb'_append_eq_of_add_le (by decide)
    _ = 0 := extractLsb'_eq_self

@[simp] theorem cmdArg_cmdWord : cmdArg (cmdWord op aux arg) = arg :=
  (extractLsb'_append_eq_of_add_le (by decide)).trans extractLsb'_eq_self

end Fields

/-- A word whose bits 9:8 are 00 is the command word of its other fields. -/
theorem cmdWord_of_fields {w : Word} {op : BitVec 4} {aux : BitVec 2} {arg : Byte} (hzero : cmdZero w = 0)
    (hop : (cmdOp w).toNat = op.toNat) (haux : cmdAux w = aux) (harg : cmdArg w = arg) :
    PortWord.cmd (cmdWord op aux arg) = .cmd w := by
  have hfields : w.extractLsb' 0 16 = cmdWord op aux arg :=
    extractLsb'_append (extractLsb'_append (extractLsb'_append (BitVec.eq_of_toNat_eq hop) haux) hzero) harg
  rw [← hfields, extractLsb'_eq_self]

/-! ### The operand forms (R82): when each spells an instruction -/

theorem plainCmd_eq_ok_iff {w : Word} {f : Byte → Instr} {i : Instr} :
    plainCmd w f = .ok i ↔ cmdAux w = 0 ∧ f (cmdArg w) = i := by
  simp [plainCmd, apply_ite (· = Except.ok i)]

theorem levelCmd_eq_ok_iff {w : Word} {f : Level → Byte → Instr} {i : Instr} :
    levelCmd w f = .ok i ↔ ∃ l, cmdAux w = levelCode l ∧ f l (cmdArg w) = i := by
  simp only [← levelOfCode?_eq_some_iff, levelCmd]
  cases levelOfCode? (cmdAux w) <;> simp

theorem flagCmd_eq_ok_iff {w : Word} {f : Bool → Byte → Except DecodeError Instr} {i : Instr} :
    flagCmd w f = .ok i ↔ ∃ u, cmdAux w = flagAux u ∧ f u (cmdArg w) = .ok i := by
  simp only [eq_flagAux_iff, flagCmd]
  cases (cmdAux w).getLsbD 1 <;> simp

theorem bankArg_eq_ok_iff {arg : Byte} {f : Bank → Instr} {i : Instr} :
    bankArg arg f = .ok i ↔ ∃ b, arg = bankByte b ∧ f b = i := by
  simp only [← bankOfOrdinal?_toNat, bankArg]
  cases bankOfOrdinal? arg.toNat <;> simp

theorem bankCmd_eq_ok_iff {w : Word} {f : Bank → Instr} {i : Instr} :
    bankCmd w f = .ok i ↔ cmdAux w = 0 ∧ ∃ b, cmdArg w = bankByte b ∧ f b = i := by
  simp [bankCmd, ← bankArg_eq_ok_iff, apply_ite (· = Except.ok i)]

theorem noArg_eq_ok_iff {arg : Byte} {i j : Instr} : noArg arg j = .ok i ↔ arg = 0 ∧ j = i := by
  simp [noArg, apply_ite (· = Except.ok i)]

/-! ### The command port, one opcode after the other (R81, R82) -/

/-- An operation-layer opcode decodes only to the instruction whose word it is. -/
theorem encode_of_decodeFacade {w : Word} {i : Instr} (hzero : cmdZero w = 0) (hop : (cmdOp w).toNat < 8)
    (h : decodeFacade w = .ok i) : encode i = .cmd w ∧ i.wf = true := by
  unfold decodeFacade at h
  split at h
  case h_1 hop =>
    split at h
    case isTrue haux =>
      obtain ⟨harg, rfl⟩ := noArg_eq_ok_iff.1 h
      exact ⟨cmdWord_of_fields hzero hop haux harg, rfl⟩
    case isFalse => cases h
  case h_2 hop =>
    obtain ⟨l, haux, rfl⟩ := levelCmd_eq_ok_iff.1 h
    exact ⟨cmdWord_of_fields hzero hop haux rfl, rfl⟩
  case h_3 hop | h_6 hop =>
    obtain ⟨haux, rfl⟩ := plainCmd_eq_ok_iff.1 h
    exact ⟨cmdWord_of_fields hzero hop haux rfl, rfl⟩
  case h_4 hop | h_5 hop | h_7 hop =>
    obtain ⟨haux, b, harg, rfl⟩ := bankCmd_eq_ok_iff.1 h
    exact ⟨cmdWord_of_fields hzero hop haux harg, rfl⟩
  case h_8 =>
    obtain ⟨haux, b, harg, rfl⟩ := bankCmd_eq_ok_iff.1 h
    have hop : (cmdOp w).toNat = 7 := by grind
    exact ⟨cmdWord_of_fields hzero hop haux harg, rfl⟩

/-- A component-level opcode decodes only to the instruction whose word it is. -/
theorem encode_of_decodeComponent {w : Word} {i : Instr} (hzero : cmdZero w = 0) (hop : ¬(cmdOp w).toNat < 8)
    (h : decodeComponent w = .ok i) : encode i = .cmd w ∧ i.wf = true := by
  unfold decodeComponent at h
  split at h
  case h_1 hop =>
    obtain ⟨u, haux, hbank⟩ := flagCmd_eq_ok_iff.1 h
    obtain ⟨b, harg, rfl⟩ := bankArg_eq_ok_iff.1 hbank
    rw [← directionBit_directionOfBit u] at haux
    exact ⟨cmdWord_of_fields hzero hop haux harg, rfl⟩
  case h_2 hop | h_4 hop =>
    obtain ⟨l, haux, rfl⟩ := levelCmd_eq_ok_iff.1 h
    exact ⟨cmdWord_of_fields hzero hop haux rfl, rfl⟩
  case h_3 hop =>
    obtain ⟨haux, rfl⟩ := plainCmd_eq_ok_iff.1 h
    exact ⟨cmdWord_of_fields hzero hop haux rfl, rfl⟩
  case h_5 hop =>
    obtain ⟨u, haux, hok⟩ := flagCmd_eq_ok_iff.1 h
    obtain rfl := Except.ok.inj hok
    exact ⟨cmdWord_of_fields hzero hop haux rfl, rfl⟩
  case h_6 hop =>
    obtain rfl := Except.ok.inj h
    exact ⟨cmdWord_of_fields hzero hop rfl rfl, rfl⟩
  case h_7 hop =>
    obtain ⟨u, haux, hno⟩ := flagCmd_eq_ok_iff.1 h
    obtain ⟨harg, rfl⟩ := noArg_eq_ok_iff.1 hno
    exact ⟨cmdWord_of_fields hzero hop haux harg, rfl⟩
  case h_8 =>
    obtain ⟨haux, rfl⟩ := plainCmd_eq_ok_iff.1 h
    have hlt := (cmdOp w).isLt
    have hop : (cmdOp w).toNat = 15 := by grind
    exact ⟨cmdWord_of_fields hzero hop haux rfl, rfl⟩

theorem encode_of_decodeCmd {expose : Bool} {w : Word} {i : Instr} (h : decodeCmd expose w = .ok i) :
    encode i = .cmd w ∧ i.wf = true := by
  unfold decodeCmd at h
  split at h
  case isTrue => cases h
  case isFalse hzero =>
    replace hzero := not_not.1 hzero
    split at h
    case isTrue hop => exact encode_of_decodeFacade hzero hop h
    case isFalse hop =>
      split at h
      case isTrue => exact encode_of_decodeComponent hzero hop h
      case isFalse => cases h

/-! The same forms, as the words they are decoded from -/

section Words

variable (op : BitVec 4) (arg : Byte) (l : Level) (b : Bank) (u : Bool)

@[simp] theorem plainCmd_cmdWord (f : Byte → Instr) : plainCmd (cmdWord op 0#2 arg) f = .ok (f arg) :=
  plainCmd_eq_ok_iff.2 (by simp)

@[simp] theorem levelCmd_cmdWord (f : Level → Byte → Instr) :
    levelCmd (cmdWord op (levelCode l) arg) f = .ok (f l arg) := levelCmd_eq_ok_iff.2 ⟨l, by simp⟩

@[simp] theorem bankArg_bankByte (f : Bank → Instr) : bankArg (bankByte b) f = .ok (f b) :=
  bankArg_eq_ok_iff.2 ⟨b, by simp⟩

@[simp] theorem bankCmd_cmdWord (f : Bank → Instr) : bankCmd (cmdWord op 0#2 (bankByte b)) f = .ok (f b) :=
  bankCmd_eq_ok_iff.2 ⟨by simp, b, by simp⟩

@[simp] theorem flagCmd_cmdWord (f : Bool → Byte → Except DecodeError Instr) :
    flagCmd (cmdWord op (flagAux u) arg) f = f u arg := by
  cases u <;> simp [flagCmd, flagAux]

@[simp] theorem noArg_zero (i : Instr) : noArg 0#8 i = .ok i := rfl

end Words

/-- An instruction with a command word is what its word decodes to. -/
theorem decodeCmd_encode {i : Instr} {w : Word} (h : encode i = .cmd w) : decodeCmd true w = .ok i := by
  cases i with
  | init | setOutput | getOutputState | getOutputSupply | getOutputThermal | getInput | getInputSupply
  | getInputThermal =>
    obtain rfl := PortWord.cmd.inj h
    simp [decodeCmd, decodeFacade]
  | select | peWritePort | peReadPort | peCfgOutput | peCfgInput | peCfgBits | peWakeup | diReadBit =>
    obtain rfl := PortWord.cmd.inj h
    simp [decodeCmd, decodeComponent]
  | _ => cases h

/-! ### The words the command port accepts (R82) -/

theorem exists_levelCode_iff (c : BitVec 2) : (∃ l, c = levelCode l) ↔ c.toNat ≠ 3 := by
  simp only [← levelOfCode?_eq_some_iff, ← Option.isSome_iff_exists, isSome_levelOfCode?, bne_iff_ne]

theorem exists_flagAux_iff (c : BitVec 2) : (∃ u, c = flagAux u) ↔ c.toNat ≤ 1 := by
  revert c
  decide

theorem exists_bankByte_iff (arg : Byte) : (∃ b, arg = bankByte b) ↔ 1 ≤ arg.toNat ∧ arg.toNat ≤ 6 := by
  simp only [← bankOfOrdinal?_toNat, ← Option.isSome_iff_exists, isSome_bankOfOrdinal?, Bool.and_eq_true,
    decide_eq_true_eq]

/-- A field or a word that spells an instruction. -/
abbrev Accepted (r : Except DecodeError Instr) : Prop := ∃ i, r = .ok i

theorem accepted_plainCmd (w : Word) (f : Byte → Instr) : Accepted (plainCmd w f) ↔ (cmdAux w).toNat = 0 := by
  simp [Accepted, plainCmd_eq_ok_iff, ← toNat_inj]

theorem accepted_levelCmd (w : Word) (f : Level → Byte → Instr) :
    Accepted (levelCmd w f) ↔ (cmdAux w).toNat ≠ 3 := by
  simp [Accepted, levelCmd_eq_ok_iff, ← exists_levelCode_iff]

theorem accepted_bankArg (arg : Byte) (f : Bank → Instr) :
    Accepted (bankArg arg f) ↔ 1 ≤ arg.toNat ∧ arg.toNat ≤ 6 := by
  simp [Accepted, bankArg_eq_ok_iff, ← exists_bankByte_iff]

theorem accepted_noArg (arg : Byte) (i : Instr) : Accepted (noArg arg i) ↔ arg.toNat = 0 := by
  simp [Accepted, noArg_eq_ok_iff, ← toNat_inj]

theorem accepted_flagCmd (w : Word) {f : Bool → Byte → Except DecodeError Instr} {P : Prop}
    (hf : ∀ u, Accepted (f u (cmdArg w)) ↔ P) : Accepted (flagCmd w f) ↔ (cmdAux w).toNat ≤ 1 ∧ P := by
  simp only [Accepted, flagCmd_eq_ok_iff, ← exists_flagAux_iff] at hf ⊢
  constructor
  · rintro ⟨i, u, haux, hi⟩
    exact ⟨⟨u, haux⟩, (hf u).1 ⟨i, hi⟩⟩
  · rintro ⟨⟨u, haux⟩, hP⟩
    obtain ⟨i, hi⟩ := (hf u).2 hP
    exact ⟨i, u, haux, hi⟩

/-- A check of `aux` before the rest. -/
theorem accepted_ite (P : Prop) [Decidable P] (r : Except DecodeError Instr) (e : DecodeError) :
    Accepted (if P then r else .error e) ↔ P ∧ Accepted r := by
  split <;> simp_all

/-- What `aux` and `arg` may be, opcode by opcode: the part of `spellsCommand` that is about the operands (R81, R82). -/
def operandsSpell (op aux arg : Nat) : Bool :=
  (if op ∈ [0x0, 0x2, 0x3, 0x4, 0x5, 0x6, 0x7, 0xA, 0xF] then aux == 0 else true) &&
    (if op ∈ [0x1, 0x9, 0xB] then aux != 3 else true) &&
    (if op ∈ [0x8, 0xC, 0xE] then aux ≤ 1 else true) &&
    (if op ∈ [0x3, 0x4, 0x6, 0x7, 0x8] then 1 ≤ arg && arg ≤ 6 else true) &&
    (if op ∈ [0x0, 0xE] then arg == 0 else true)

theorem spellsCommand_iff (expose : Bool) (w : Word) : spellsCommand expose w = true ↔
    cmdZero w = 0 ∧ (expose = true ∨ (cmdOp w).toNat ≤ 7) ∧
      operandsSpell (cmdOp w).toNat (cmdAux w).toNat (cmdArg w).toNat = true := by
  simp only [spellsCommand, operandsSpell, Bool.and_eq_true, beq_iff_eq, Bool.or_eq_true, decide_eq_true_eq, and_assoc]
  rfl

theorem accepted_decodeFacade {w : Word} (hop : (cmdOp w).toNat < 8) :
    Accepted (decodeFacade w) ↔ operandsSpell (cmdOp w).toNat (cmdAux w).toNat (cmdArg w).toNat = true := by
  unfold decodeFacade
  split
  case h_1 hop => simp [operandsSpell, hop, accepted_ite, accepted_noArg, ← toNat_inj]
  case h_2 hop => simp [operandsSpell, hop, accepted_levelCmd]
  case h_3 hop | h_6 hop => simp [operandsSpell, hop, accepted_plainCmd]
  case h_4 hop | h_5 hop | h_7 hop =>
    simp [operandsSpell, hop, bankCmd, accepted_ite, accepted_bankArg, ← toNat_inj]
  case h_8 =>
    have hop : (cmdOp w).toNat = 7 := by grind
    simp [operandsSpell, hop, bankCmd, accepted_ite, accepted_bankArg, ← toNat_inj]

theorem accepted_decodeComponent {w : Word} (hop : ¬(cmdOp w).toNat < 8) :
    Accepted (decodeComponent w) ↔ operandsSpell (cmdOp w).toNat (cmdAux w).toNat (cmdArg w).toNat = true := by
  unfold decodeComponent
  split
  case h_1 hop =>
    rw [accepted_flagCmd w fun u => accepted_bankArg _ _]
    simp [operandsSpell, hop]
  case h_2 hop | h_4 hop => simp [operandsSpell, hop, accepted_levelCmd]
  case h_3 hop => simp [operandsSpell, hop, accepted_plainCmd]
  case h_5 hop =>
    rw [accepted_flagCmd w fun u => iff_true_intro ⟨_, rfl⟩]
    simp [operandsSpell, hop]
  case h_6 hop => simp [operandsSpell, hop]
  case h_7 hop =>
    rw [accepted_flagCmd w fun u => accepted_noArg _ _]
    simp [operandsSpell, hop]
  case h_8 =>
    have hlt := (cmdOp w).isLt
    have hop : (cmdOp w).toNat = 15 := by grind
    simp [operandsSpell, hop, accepted_plainCmd]

/-- The decoder takes exactly the words of the table (R82). -/
theorem accepted_decodeCmd (expose : Bool) (w : Word) :
    Accepted (decodeCmd expose w) ↔ spellsCommand expose w = true := by
  rw [spellsCommand_iff]
  unfold decodeCmd
  split
  case isTrue hzero => exact ⟨fun ⟨_, h⟩ => (by cases h), fun h => absurd h.1 hzero⟩
  case isFalse hzero =>
    replace hzero := not_not.1 hzero
    split
    case isTrue hop => simp only [hzero, accepted_decodeFacade hop, Nat.le_of_lt_succ hop, or_true, true_and]
    case isFalse hop =>
      have hle : ¬(cmdOp w).toNat ≤ 7 := fun h => hop (Nat.lt_succ_of_le h)
      simp only [accepted_ite, hzero, hle, accepted_decodeComponent hop, or_false, true_and]

/-- Settles O3: a word the decoder takes is run, and every instruction has a next state; any other is refused. -/
theorem commandPortAcceptsExactlyTheCommandWords : Obligations.CommandPortAcceptsExactlyTheCommandWords := by
  intro s w hport hidle
  rw [← accepted_decodeCmd, Bool.eq_false_iff, Ne, ← accepted_decodeCmd]
  constructor
  · rintro ⟨i, hi⟩
    obtain ⟨m, -, hrun⟩ := exec_fromPrimitives i
    rw [stepRunsTheDecodedInstruction s (.cmd w) i hport hidle hi, hrun]
    exact ⟨_, rfl⟩
  · intro hnone
    cases hdecode : decodeCmd s.cfg.exposeComponentOps w with
    | ok i => exact absurd ⟨i, hdecode⟩ hnone
    | error why => exact ⟨why, hdecode, by simp only [step, hport, hidle, decodeWord, hdecode]⟩

/-! ### The frames of the bus (R72, R77) -/

/-- A field that a row fixes holds the row's bits. -/
theorem field_of_matchesRow {w mask pattern : Word} {start len : Nat} (h : matchesRow w mask pattern = true)
    (hmask : mask.extractLsb' start len = BitVec.allOnes len) :
    w.extractLsb' start len = pattern.extractLsb' start len := by
  rw [← beq_iff_eq.1 h, BitVec.extractLsb'_and, hmask, BitVec.and_allOnes]

/-- A word of one row matches no row whose bits differ from it under both masks. -/
theorem matchesRow_disjoint {w mask pattern mask' pattern' : Word} (h : matchesRow w mask pattern = true)
    (hdiff : pattern &&& mask' ≠ pattern' &&& mask) : matchesRow w mask' pattern' = false := by
  refine beq_eq_false_iff_ne.2 fun h' => hdiff ?_
  rw [← beq_iff_eq.1 h, ← h', BitVec.and_assoc, BitVec.and_comm mask, ← BitVec.and_assoc]

theorem matchesRow_full {w pattern : Word} (h : matchesRow w 0xFFFF pattern = true) : w = pattern := by
  have hw : w.extractLsb' 0 16 = pattern.extractLsb' 0 16 := field_of_matchesRow h rfl
  simpa only [extractLsb'_eq_self] using hw

theorem portFrame_eq_ok_iff {p : BitVec 5} {i j : Instr} :
    portFrame p j = .ok i ↔ framePortOk p = true ∧ j = i := by
  simp [portFrame, apply_ite (· = Except.ok i)]

theorem cfgFrame_eq_ok_iff {q : BitVec 3} {i j : Instr} :
    cfgFrame q j = .ok i ↔ frameCfgOk q = true ∧ j = i := by
  simp [cfgFrame, apply_ite (· = Except.ok i)]

/-! The word of each row, from its fields -/

/-- A bus word is the word of an instruction when all its bits are. -/
theorem frame_of_fields {w v : Word} (h : w.extractLsb' 0 16 = v) : PortWord.frame v = .frame w := by
  rw [← h, extractLsb'_eq_self]

theorem encode_portWrite {w : Word} (h : matchesRow w 0xE0FE 0x2000 = true) :
    encode (.fPortWrite (framePort w) (w.getLsbD 0)) = .frame w := by
  have hop : w.extractLsb' 13 3 = 0b001 := field_of_matchesRow h rfl
  have hport : w.extractLsb' 8 5 = framePort w := rfl
  have hzero : w.extractLsb' 1 7 = 0 := field_of_matchesRow h rfl
  have hbit := extractLsb'_one w 0
  exact frame_of_fields (extractLsb'_append (extractLsb'_append (extractLsb'_append hop hport) hzero) hbit)

theorem encode_portReadReq {w : Word} (h : matchesRow w 0xE0FF 0xA000 = true) :
    encode (.fPortReadReq (framePort w)) = .frame w := by
  have hop : w.extractLsb' 13 3 = 0b101 := field_of_matchesRow h rfl
  have hport : w.extractLsb' 8 5 = framePort w := rfl
  have hzero : w.extractLsb' 0 8 = 0 := field_of_matchesRow h rfl
  exact frame_of_fields (extractLsb'_append (extractLsb'_append hop hport) hzero)

theorem encode_cfgReadReq {w : Word} (h : matchesRow w 0xF8FF 0x8800 = true) :
    encode (.fCfgReadReq (frameCfg w)) = .frame w := by
  have hop : w.extractLsb' 11 5 = 0b10001 := field_of_matchesRow h rfl
  have hcfg : w.extractLsb' 8 3 = frameCfg w := rfl
  have hzero : w.extractLsb' 0 8 = 0 := field_of_matchesRow h rfl
  exact frame_of_fields (extractLsb'_append (extractLsb'_append hop hcfg) hzero)

theorem encode_cfgWrite {w : Word} (h : matchesRow w 0xF800 0x0800 = true) :
    encode (.fCfgWrite (frameCfg w) (frameByte1 w)) = .frame w := by
  have hop : w.extractLsb' 11 5 = 0b00001 := field_of_matchesRow h rfl
  have hcfg : w.extractLsb' 8 3 = frameCfg w := rfl
  have hdata : w.extractLsb' 0 8 = frameByte1 w := rfl
  exact frame_of_fields (extractLsb'_append (extractLsb'_append hop hcfg) hdata)

theorem encode_gcfgWrite {w : Word} (h : matchesRow w 0xFF7F 0x0401 = true) :
    encode (.fGcfgWrite (w.getLsbD 7)) = .frame w := by
  have hreg : w.extractLsb' 8 8 = 0x04 := field_of_matchesRow h rfl
  have hbit := extractLsb'_one w 7
  have hone : w.extractLsb' 0 7 = 1 := field_of_matchesRow h rfl
  exact frame_of_fields (extractLsb'_append (extractLsb'_append hreg hbit) hone)

/-- A bus word decodes only to the instruction whose frame it is. -/
theorem encode_of_decodeFrame {w : Word} {i : Instr} (h : decodeFrame w = .ok i) :
    encode i = .frame w ∧ i.wf = true := by
  unfold decodeFrame at h
  split at h
  case isTrue hrow =>
    obtain rfl := Except.ok.inj h
    exact ⟨congrArg PortWord.frame (matchesRow_full hrow).symm, rfl⟩
  split at h
  case isTrue hrow =>
    obtain rfl := Except.ok.inj h
    exact ⟨congrArg PortWord.frame (matchesRow_full hrow).symm, rfl⟩
  split at h
  case isTrue hrow =>
    obtain ⟨hport, rfl⟩ := portFrame_eq_ok_iff.1 h
    exact ⟨encode_portWrite hrow, hport⟩
  split at h
  case isTrue hrow =>
    obtain ⟨hport, rfl⟩ := portFrame_eq_ok_iff.1 h
    exact ⟨encode_portReadReq hrow, hport⟩
  split at h
  case isTrue hrow =>
    obtain ⟨hcfg, rfl⟩ := cfgFrame_eq_ok_iff.1 h
    exact ⟨encode_cfgReadReq hrow, hcfg⟩
  split at h
  case isTrue hrow =>
    obtain ⟨hcfg, rfl⟩ := cfgFrame_eq_ok_iff.1 h
    exact ⟨encode_cfgWrite hrow, hcfg⟩
  split at h
  case isTrue hrow =>
    obtain rfl := Except.ok.inj h
    exact ⟨encode_gcfgWrite hrow, rfl⟩
  case isFalse => cases h

/-! Each row of the table is decoded by its own line of the decoder: the rows are disjoint -/

section Rows

variable {w : Word}

theorem decodeFrame_portWrite {p : BitVec 5} {d : Bool} (h : matchesRow w 0xE0FE 0x2000 = true)
    (hport : framePort w = p) (hbit : w.getLsbD 0 = d) : decodeFrame w = portFrame p (.fPortWrite p d) := by
  subst hport hbit
  simp (disch := decide) only [decodeFrame, h, matchesRow_disjoint h, Bool.false_eq_true, if_true, if_false]

theorem decodeFrame_portReadReq {p : BitVec 5} (h : matchesRow w 0xE0FF 0xA000 = true) (hport : framePort w = p) :
    decodeFrame w = portFrame p (.fPortReadReq p) := by
  subst hport
  simp (disch := decide) only [decodeFrame, h, matchesRow_disjoint h, Bool.false_eq_true, if_true, if_false]

theorem decodeFrame_cfgReadReq {q : BitVec 3} (h : matchesRow w 0xF8FF 0x8800 = true) (hcfg : frameCfg w = q) :
    decodeFrame w = cfgFrame q (.fCfgReadReq q) := by
  subst hcfg
  simp (disch := decide) only [decodeFrame, h, matchesRow_disjoint h, Bool.false_eq_true, if_true, if_false]

theorem decodeFrame_cfgWrite {q : BitVec 3} {c : Byte} (h : matchesRow w 0xF800 0x0800 = true) (hcfg : frameCfg w = q)
    (hdata : frameByte1 w = c) : decodeFrame w = cfgFrame q (.fCfgWrite q c) := by
  subst hcfg hdata
  simp (disch := decide) only [decodeFrame, h, matchesRow_disjoint h, Bool.false_eq_true, if_true, if_false]

end Rows

/-! The fields of each row's word -/

theorem portWrite_fields (p : BitVec 5) (d : Bool) :
    framePort ((0b001 : BitVec 3) ++ p ++ (0 : BitVec 7) ++ BitVec.ofBool d) = p ∧
      ((0b001 : BitVec 3) ++ p ++ (0 : BitVec 7) ++ BitVec.ofBool d).getLsbD 0 = d := by
  revert p
  cases d <;> decide

theorem portReadReq_field (p : BitVec 5) : framePort ((0b101 : BitVec 3) ++ p ++ (0 : BitVec 8)) = p := by
  revert p
  decide

theorem cfgReadReq_field (q : BitVec 3) : frameCfg ((0b10001 : BitVec 5) ++ q ++ (0 : BitVec 8)) = q := by
  revert q
  decide

theorem cfgWrite_fields (q : BitVec 3) (c : Byte) :
    frameCfg ((0b00001 : BitVec 5) ++ q ++ c) = q ∧ frameByte1 ((0b00001 : BitVec 5) ++ q ++ c) = c := by
  refine ⟨?_, (extractLsb'_append_eq_of_add_le (by decide)).trans extractLsb'_eq_self⟩
  calc frameCfg ((0b00001 : BitVec 5) ++ q ++ c)
    _ = ((0b00001 : BitVec 5) ++ q).extractLsb' 0 3 := extractLsb'_append_eq_of_le (by decide)
    _ = q.extractLsb' 0 3 := extractLsb'_append_eq_of_add_le (by decide)
    _ = q := extractLsb'_eq_self

/-- A well-formed instruction with a bus word is what its word decodes to. -/
theorem decodeFrame_encode {i : Instr} {w : Word} (hwf : i.wf = true) (h : encode i = .frame w) :
    decodeFrame w = .ok i := by
  cases i with
  | fPortWrite p d =>
    obtain rfl := PortWord.frame.inj h
    obtain ⟨hport, hbit⟩ := portWrite_fields p d
    exact (decodeFrame_portWrite (Laws.RowMatch.fPortWrite p d) hport hbit).trans (if_pos hwf)
  | fPortReadReq p =>
    obtain rfl := PortWord.frame.inj h
    exact (decodeFrame_portReadReq (Laws.RowMatch.fPortReadReq p) (portReadReq_field p)).trans (if_pos hwf)
  | fCfgReadReq q =>
    obtain rfl := PortWord.frame.inj h
    exact (decodeFrame_cfgReadReq (Laws.RowMatch.fCfgReadReq q) (cfgReadReq_field q)).trans (if_pos hwf)
  | fCfgWrite q c =>
    obtain rfl := PortWord.frame.inj h
    obtain ⟨hcfg, hdata⟩ := cfgWrite_fields q c
    exact (decodeFrame_cfgWrite (Laws.RowMatch.fCfgWrite q c) hcfg hdata).trans (if_pos hwf)
  | fNop | direq16 =>
    obtain rfl := PortWord.frame.inj h
    rfl
  | fGcfgWrite u =>
    obtain rfl := PortWord.frame.inj h
    cases u <;> rfl
  | _ => cases h

/-! ### The codes of the select lines (R70, R101) -/

theorem encode_of_decodeSel {a : ChipAddr} {i : Instr} (h : decodeSel a = .ok i) :
    encode i = .sel a ∧ i.wf = true := by
  have hsel : ∀ a : ChipAddr, ∀ j ∈ instr? (decodeSel a), encode j = .sel a ∧ j.wf = true := by decide
  exact hsel a i (by rw [h]; rfl)

theorem decodeSel_encode {i : Instr} {a : ChipAddr} (h : encode i = .sel a) : decodeSel a = .ok i := by
  cases i
  all_goals cases h
  all_goals rfl

/-! ### Both directions, at every boundary -/

/-- Settles O1, boundary by boundary. -/
theorem encodedInstructionDecodesToItself : Obligations.EncodedInstructionDecodesToItself := by
  intro i hwf
  cases hw : encode i with
  | cmd w => exact decodeCmd_encode hw
  | frame w => exact decodeFrame_encode hwf hw
  | sel a => exact decodeSel_encode hw

/-- Settles O2, boundary by boundary. -/
theorem decodedWordIsTheEncodingOfItsInstruction : Obligations.DecodedWordIsTheEncodingOfItsInstruction := by
  intro expose w i h
  cases w with
  | cmd w => exact encode_of_decodeCmd h
  | frame w => exact encode_of_decodeFrame h
  | sel a => exact encode_of_decodeSel h

/-- Settles O5: each of the twelve words runs through the decoder's tables. -/
theorem sampleWordsDecodeAsTheSpecSays : Obligations.SampleWordsDecodeAsTheSpecSays :=
  ⟨rfl, rfl, rfl, rfl, rfl, rfl, rfl, rfl, rfl, rfl, rfl, rfl⟩

end Sys2Proof
end

section
/-! SUPPORT. The statements of the family encoding about bytes and words: the register bytes of the ports (O9), the data
byte of a level (O13) and the response word (O15). -/

namespace Sys2Proof.Machine

/-! ### The register bytes of a port (R73) -/

/-- A port number up to 31 is five bits wide. -/
theorem setWidth_port {p : Byte} (hhi : p.toNat ≤ 31) : (p.setWidth 5).setWidth 8 = p := by
  apply BitVec.eq_of_toNat_eq
  simp only [BitVec.toNat_setWidth]
  omega

theorem toNat_cfgIndex (p : Byte) : (cfgIndex p).toNat = p.toNat / 4 := by
  rw [cfgIndex, BitVec.toNat_ushiftRight, Nat.shiftRight_eq_div_pow]

/-- The number of a port's configuration register is three bits wide. -/
theorem setWidth_cfgIndex {p : Byte} (hhi : p.toNat ≤ 31) : ((cfgIndex p).setWidth 3).setWidth 8 = cfgIndex p := by
  apply BitVec.eq_of_toNat_eq
  simp only [BitVec.toNat_setWidth, toNat_cfgIndex]
  omega

/-- The register bits and the port's five bits do not overlap, so sums are ORs. -/
theorem portByte_or (q : BitVec 5) : (0x20 : Byte) + q.setWidth 8 = 0x20 ||| q.setWidth 8 ∧
    (0xA0 : Byte) + q.setWidth 8 = 0xA0 ||| q.setWidth 8 ∧
    (0xA0 : Byte) ||| q.setWidth 8 = 0x80 ||| (0x20 + q.setWidth 8) := by
  revert q
  decide

theorem cfgByte_or (q : BitVec 3) : (0x08 : Byte) + q.setWidth 8 = 0x08 ||| q.setWidth 8 ∧
    (0x88 : Byte) ||| q.setWidth 8 = 0x80 ||| (0x08 + q.setWidth 8) ∧
    ((0x88 : Byte) ||| q.setWidth 8).toNat = 0x88 + q.toNat := by
  revert q
  decide

theorem cfgOffset_eq (p : Byte) : cfgOffset p = p.toNat % 4 * 2 := by
  rw [cfgOffset, BitVec.toNat_and]
  exact congrArg (· * 2) (Nat.and_two_pow_sub_one_eq_mod p.toNat 2)

theorem cfgOffset_mem (p : Byte) : cfgOffset p ∈ [0, 2, 4, 6] := by
  have hlt : p.toNat % 4 < 4 := Nat.mod_lt _ (by decide)
  rw [cfgOffset_eq]
  interval_cases p.toNat % 4 <;> decide

/-- Settles O9: the port is the low five bits of its register bytes, its configuration register the low three. -/
theorem registerBytesOfPorts : Obligations.RegisterBytesOfPorts := by
  intro p hlo hhi
  have hport := setWidth_port hhi
  have hcfg := setWidth_cfgIndex hhi
  have hindex := toNat_cfgIndex p
  obtain ⟨hwrite, hread, hflag⟩ := portByte_or (p.setWidth 5)
  obtain ⟨hcwrite, hcread, hctoNat⟩ := cfgByte_or ((cfgIndex p).setWidth 3)
  have hreadPort : readRequest (portReg p) = 0xA0 + p := by
    rw [← hport]
    exact readRequest_portReg _
  have hreadCfg : readRequest (cfgReg p) = 0x88 ||| cfgIndex p := by
    rw [cfgReg, ← hcfg]
    exact readRequest_cfgBase _
  rw [hport] at hwrite hread hflag
  rw [hcfg, BitVec.toNat_setWidth, hindex] at hctoNat
  rw [hcfg] at hcwrite hcread
  refine ⟨rfl, hwrite, toNat_portReg hlo hhi, hreadPort, hread, hflag, ?_, hindex, ?_, ?_, rfl, hcwrite, ?_,
    hreadCfg, hcread, ?_, cfgOffset_eq p, cfgOffset_mem p⟩
  · rw [hreadPort, BitVec.toNat_add]
    simp only [BitVec.reduceToNat]
    omega
  · omega
  · omega
  · rw [cfgReg, BitVec.toNat_add, hindex]
    simp only [Config.peCfgBase, BitVec.reduceToNat]
    omega
  · rw [hreadCfg, hctoNat]
    omega

/-! ### The data byte of a level (R75) -/

theorem levelOfByte_ne_hiz (v : Byte) : levelOfByte v ≠ .hiz := by
  unfold levelOfByte
  split <;> decide

/-- Settles O13: each direction is a table of its own. -/
theorem levelBytesInBothDirections : Obligations.LevelBytesInBothDirections :=
  ⟨rfl, rfl, rfl, fun _ => rfl, levelOfByte_ne_hiz, rfl⟩

/-! ### The response word (R85, R86) -/

/-- The three fields of a response word. -/
theorem rspFields (status value : BitVec 4) :
    (status ++ (0 : BitVec 8) ++ value).extractLsb' 12 4 = status ∧
      (status ++ (0 : BitVec 8) ++ value).extractLsb' 4 8 = 0 ∧
      (status ++ (0 : BitVec 8) ++ value).extractLsb' 0 4 = value := by
  revert status value
  decide

theorem errCode_ne_zero (e : ErrKind) : errCode e ≠ 0 := by
  cases e with
  | transport c => cases c <;> decide
  | illegalInput | illegalOutput | unsupportedLevel | diParity | notPresent => decide

/-- Settles O15: the codes one by one, then the fields. -/
theorem responseWordFields : Obligations.ResponseWordFields := by
  refine ⟨rfl, rfl, rfl, rfl, rfl, rfl, rfl, rfl, rfl, rfl, rfl, rfl, rfl, rfl, rfl, rfl, rfl, rfl, rfl, rfl,
    rfl, rfl, fun v => rspFields 0 (valueCode v), fun e => ?_⟩
  obtain ⟨hstatus, hmiddle, hvalue⟩ := rspFields (errCode e) 0
  exact ⟨hstatus, errCode_ne_zero e, hmiddle, hvalue⟩

end Sys2Proof.Machine
end

section
/-! SUPPORT. The statements of the family encoding about the frames an instruction sends: the instructions of one frame
complete with that frame (O20), and no instruction sends a frame outside the table (O54). -/

namespace Sys2Proof.Machine

/-! ### The instructions of one frame, undisturbed (R72, R111) -/

/-- Settles O20: the instruction is its frame, and settling the chips touches no part of the block. -/
theorem oneFrameInstructionsSendTheirFrame : Obligations.OneFrameInstructionsSendTheirFrame := by
  intro i t0 t1 s h hq
  obtain ⟨r0, r1, u, hu, -, hlog, hlines, hbuf0, hbuf1, hcomb, hcfgtmp, ⟨hworld, -⟩, -⟩ :=
    frame_quiet (n := 0) (s := s.begin i) t0 t1 hq
  have hrun : asUnit (onError (frame t0 t1) (frameLoss i t0)) (s.begin i) = (.ok .unit, u) := andThen_ok (onError_ok hu)
  obtain ⟨hsettled, -⟩ := settleChips_same s u
  refine ⟨r0, r1, _, ⟨(oneFrame_exec h s).trans (runCommand_eq hrun), rfl, ?_, rfl, ?_⟩, ?_⟩
  · simp [State.trace, hsettled, hlog]
  · simpa [SameWorld, hsettled] using hworld
  · simp [hsettled, hlines, hbuf0, hbuf1, hcomb, hcfgtmp]

/-! ### The frames of the table (R72, R77) -/

/-- The two bytes are one of the frames of the table. -/
abbrev TableFrame (t0 t1 : Byte) : Prop := ∃ j, decodeFrame (t0 ++ t1) = .ok j

theorem tableFrame_of_encode {i : Instr} {t0 t1 : Byte} (hwf : i.wf = true) (h : encode i = .frame (t0 ++ t1)) :
    TableFrame t0 t1 := ⟨i, decodeFrame_encode hwf h⟩

theorem tableFrame_portWrite {p : BitVec 5} (hp : framePortOk p = true) (d : Bool) :
    TableFrame (portReg (p.setWidth 8)) (bitByte d) := by
  refine tableFrame_of_encode (i := .fPortWrite p d) hp ?_
  clear hp
  revert p
  cases d <;> decide

theorem tableFrame_portReadReq {p : BitVec 5} (hp : framePortOk p = true) :
    TableFrame (readRequest (portReg (p.setWidth 8))) 0x00 := by
  refine tableFrame_of_encode (i := .fPortReadReq p) hp ?_
  clear hp
  revert p
  decide

theorem tableFrame_nop : TableFrame 0x00 0x00 := tableFrame_of_encode (i := .fNop) rfl rfl

theorem tableFrame_cfgReadReq {q : BitVec 3} (hq : frameCfgOk q = true) :
    TableFrame (readRequest (Config.peCfgBase + q.setWidth 8)) 0x00 := by
  refine tableFrame_of_encode (i := .fCfgReadReq q) hq ?_
  clear hq
  revert q
  decide

theorem tableFrame_cfgWrite {q : BitVec 3} (hq : frameCfgOk q = true) (c : Byte) :
    TableFrame (Config.peCfgBase + q.setWidth 8) c := by
  have hreg : (0b00001 : BitVec 5) ++ q = Config.peCfgBase + q.setWidth 8 := by
    clear hq
    revert q
    decide
  exact tableFrame_of_encode (i := .fCfgWrite q c) hq (congrArg (fun r : Byte => PortWord.frame (r ++ c)) hreg)

theorem tableFrame_gcfgWrite (u : Bool) : TableFrame Config.peGcfgReg (wakeByte u) :=
  tableFrame_of_encode (i := .fGcfgWrite u) rfl (by cases u <;> rfl)

theorem tableFrame_direq16 : TableFrame Config.diRequest0 Config.diRequest1 :=
  tableFrame_of_encode (i := .direq16) rfl rfl

/-! The frames of a port in range -/

section InRange

variable {p : Byte} (h : portInRange p = true)
include h

theorem port_bounds : 4 ≤ p.toNat ∧ p.toNat ≤ 31 := by
  rw [portInRange, Bool.and_eq_true, decide_eq_true_iff, decide_eq_true_iff] at h
  exact h

theorem framePortOk_port : framePortOk (p.setWidth 5) = true := by
  obtain ⟨hlo, hhi⟩ := port_bounds h
  rw [framePortOk, decide_eq_true_iff, BitVec.toNat_setWidth, Config.portMin]
  omega

theorem frameCfgOk_port : frameCfgOk ((cfgIndex p).setWidth 3) = true := by
  obtain ⟨hlo, hhi⟩ := port_bounds h
  rw [frameCfgOk, decide_eq_true_iff, BitVec.toNat_setWidth, toNat_cfgIndex, Config.portMin]
  omega

theorem tableFrame_writePort (d : Bool) : TableFrame (portReg p) (bitByte d) := by
  rw [← setWidth_port (port_bounds h).2]
  exact tableFrame_portWrite (framePortOk_port h) d

theorem tableFrame_readPort : TableFrame (readRequest (portReg p)) 0x00 := by
  rw [← setWidth_port (port_bounds h).2]
  exact tableFrame_portReadReq (framePortOk_port h)

theorem tableFrame_readCfg : TableFrame (readRequest (cfgReg p)) 0x00 := by
  rw [cfgReg, ← setWidth_cfgIndex (port_bounds h).2]
  exact tableFrame_cfgReadReq (frameCfgOk_port h)

theorem tableFrame_writeCfg (c : Byte) : TableFrame (cfgReg p) c := by
  rw [cfgReg, ← setWidth_cfgIndex (port_bounds h).2]
  exact tableFrame_cfgWrite (frameCfgOk_port h) c

end InRange

/-! ### The operations send no other frame (R87) -/

/-- The actions that send only the frames of the table. -/
def Actions.table : Actions := ⟨fun _ => True, TableFrame, fun _ => True⟩

namespace Within

/-- What follows a check need only be within the actions when the check holds. -/
theorem afterRequire {A : Actions} {α : Type} {ok : Bool} {e : ErrKind} {k : Unit → Op α} (he : e.isCheck = true)
    (hk : ok = true → Within A (k ())) : Within A (Machine.andThen (Machine.require ok e) k) := by
  cases ok with
  | false => exact .raise he
  | true => exact hk rfl

theorem table_opWritePort (l : Level) (p : Byte) : Within .table (Machine.opWritePort l p) := by
  refine afterRequire rfl fun h => ?_
  cases l with
  | low => exact .raise rfl
  | high => exact regWrite trivial (tableFrame_writePort h true)
  | hiz => exact regWrite trivial (tableFrame_writePort h false)

theorem table_opReadPort (p : Byte) : Within .table (Machine.opReadPort p) :=
  afterRequire rfl fun h => (regRead trivial (tableFrame_readPort h) tableFrame_nop).map levelOfByte

theorem table_opCfgBits (bits : BitVec 2) (p : Byte) : Within .table (Machine.opCfgBits bits p) :=
  afterRequire rfl fun h => (regRead trivial (tableFrame_readCfg h) tableFrame_nop).andThen fun _ =>
    (writeCfgtmp _).andThen fun _ => (writeCfgtmp _).andThen fun _ => cfgWrite trivial (tableFrame_writeCfg h _) trivial

theorem table_opCfgOutput (l : Level) (p : Byte) : Within .table (Machine.opCfgOutput l p) :=
  (table_opWritePort l p).andThen fun _ => table_opCfgBits _ p

theorem table_opWakeup (u : Bool) : Within .table (Machine.opWakeup u) := regWrite trivial (tableFrame_gcfgWrite u)

theorem table_drives (x : Line) : Actions.table.drives x := trivial

theorem table_opSelect (d : Direction) (b : Bank) : Within .table (Machine.opSelect d b) := opSelect table_drives d b

theorem table_initBank (b : Bank) : Within .table (initBank b) :=
  (table_opSelect _ _).andThen fun _ => (forEach fun p _ => table_opCfgOutput .hiz p).andThen fun _ =>
    (forEach fun p _ => table_opCfgBits (fieldInput true) p).andThen fun _ =>
    (forEach fun p _ => table_opCfgBits (fieldInput false) p).andThen fun _ =>
    (forEach fun p _ => table_opCfgBits (fieldInput true) p).andThen fun _ =>
    readCfg.andThen fun cfg => table_opWakeup cfg.initEnableIrq

theorem table_opSetOutput (l : Level) (a : Byte) : Within .table (Machine.opSetOutput l a) :=
  (locate a rfl).andThen fun _ => (table_opSelect _ _).andThen fun _ => table_opWritePort l _

theorem table_readTwo (p q : Byte) : Within .table (Machine.readTwo p q) :=
  (table_opReadPort p).andThen fun l => (table_opReadPort q).map fun m => (l, m)

theorem table_readSupply : Within .table Machine.readSupply :=
  (table_readTwo 20 21).andThen fun ls => readCfg.map fun cfg => outSupply cfg.outSupply ls.1 ls.2

theorem table_opGetOutputState (a : Byte) : Within .table (Machine.opGetOutputState a) :=
  (locate a rfl).andThen fun _ => (table_opSelect _ _).andThen fun _ => table_readSupply.andThen fun _ =>
    (require _ rfl).andThen fun _ => (table_opReadPort _).map lineOfLevel

theorem table_opGetOutputSupply (b : Bank) : Within .table (Machine.opGetOutputSupply b) :=
  (table_opSelect _ _).andThen fun _ => table_readSupply.map outSupplyState

theorem table_opGetOutputThermal (b : Bank) : Within .table (Machine.opGetOutputThermal b) :=
  (table_opSelect _ _).andThen fun _ => (table_readTwo 22 23).andThen fun ls =>
    readCfg.map fun cfg => outThermal cfg.outThermal ls.1 ls.2

end Within

/-- Every well-formed instruction runs an operation that sends only frames of the table. -/
theorem exec_within_table {i : Instr} (hwf : i.wf = true) :
    ∃ m : Op Value, Within .table m ∧ ∀ s, exec i s = runCommand i m s := by
  have hselect (d : Direction) (b : Bank) : Within .table (asUnit (opSelect d b)) := (Within.table_opSelect d b).asUnit
  have hframe {t0 t1 : Byte} (h : TableFrame t0 t1) : Within .table (asUnit (frame t0 t1)) :=
    (Within.frame trivial h).asUnit
  have hdrives := Within.table_drives
  cases i with
  | init => exact ⟨_, (Within.forEach fun b _ => Within.table_initBank b).asUnit, fun _ => rfl⟩
  | setOutput l a => exact ⟨_, (Within.table_opSetOutput l a).asUnit, fun _ => rfl⟩
  | getOutputState a => exact ⟨_, (Within.table_opGetOutputState a).map Value.line, fun _ => rfl⟩
  | getOutputSupply b => exact ⟨_, (Within.table_opGetOutputSupply b).map Value.supply, fun _ => rfl⟩
  | getOutputThermal b => exact ⟨_, (Within.table_opGetOutputThermal b).map Value.thermal, fun _ => rfl⟩
  | getInput a => exact ⟨_, (Within.opGetInput hdrives tableFrame_direq16 a).map Value.level, fun _ => rfl⟩
  | getInputSupply b =>
    exact ⟨_, (Within.opGetInputSupply hdrives tableFrame_direq16 b).map Value.supply, fun _ => rfl⟩
  | getInputThermal b =>
    exact ⟨_, (Within.opGetInputThermal hdrives tableFrame_direq16 b).map Value.thermal, fun _ => rfl⟩
  | peWritePort l p => exact ⟨_, (Within.table_opWritePort l p).asUnit, fun _ => rfl⟩
  | peReadPort p => exact ⟨_, (Within.table_opReadPort p).map Value.level, fun _ => rfl⟩
  | peCfgOutput l p => exact ⟨_, (Within.table_opCfgOutput l p).asUnit, fun _ => rfl⟩
  | peCfgInput u p => exact ⟨_, (Within.table_opCfgBits (fieldInput u) p).asUnit, fun _ => rfl⟩
  | peCfgBits b p => exact ⟨_, (Within.table_opCfgBits b p).asUnit, fun _ => rfl⟩
  | peWakeup u => exact ⟨_, (Within.table_opWakeup u).asUnit, fun _ => rfl⟩
  | diReadBit n => exact ⟨_, (Within.readBit hdrives tableFrame_direq16 n).map Value.bit, fun _ => rfl⟩
  | fPortWrite p d => exact ⟨_, hframe (tableFrame_portWrite hwf d), fun _ => rfl⟩
  | fPortReadReq p => exact ⟨_, hframe (tableFrame_portReadReq hwf), fun _ => rfl⟩
  | fNop => exact ⟨_, hframe tableFrame_nop, fun _ => rfl⟩
  | fCfgReadReq q => exact ⟨_, hframe (tableFrame_cfgReadReq hwf), fun _ => rfl⟩
  | fCfgWrite q c => exact ⟨_, (Within.cfgWrite trivial (tableFrame_cfgWrite hwf c) trivial).asUnit, fun _ => rfl⟩
  | fGcfgWrite u => exact ⟨_, hframe (tableFrame_gcfgWrite u), fun _ => rfl⟩
  | direq16 => exact ⟨_, (Within.readFrame trivial trivial tableFrame_direq16).asUnit, fun _ => rfl⟩
  | select d b => exact ⟨_, hselect d b, fun _ => rfl⟩
  | selOut1 | selOut2 | selOut3 | selOut4 | selOut5 | selOut6 => exact ⟨_, hselect .dout _, fun _ => rfl⟩
  | selIn1 | selIn2 | selIn3 | selIn4 | selIn5 | selIn6 => exact ⟨_, hselect .din _, fun _ => rfl⟩

/-! ### The events of such operations -/

/-- An event the block may append: an exchange, failed or not, is of a frame of the table, and a delay is the settle
time (R72, R77, R242). -/
def Event.Allowed : Event → Prop
  | .pin _ _ => True
  | .delay us => us = 2
  | .xfer t0 t1 _ _ => TableFrame t0 t1
  | .xferFail t0 t1 => TableFrame t0 t1

/-- The trace is the list `l`, newest event first, and allowed events after it. -/
def AllowedAfter (l : List Event) (s : State) : Prop := ∃ new, s.log = new ++ l ∧ ∀ e ∈ new, Event.Allowed e

theorem AllowedAfter.sameBlock {l : List Event} {s t : State} (h : AllowedAfter l s) (ht : SameBlock s t) :
    AllowedAfter l t := by
  obtain ⟨-, -, -, -, -, -, -, -, -, hlog, -⟩ := ht
  rwa [AllowedAfter, hlog]

theorem AllowedAfter.emit {l : List Event} {s : State} {e : Event} (h : AllowedAfter l s) (he : Event.Allowed e) :
    AllowedAfter l (s.emit e) := by
  obtain ⟨new, hlog, hnew⟩ := h
  exact ⟨e :: new, by rw [emit_log, hlog, List.cons_append], List.forall_mem_cons.2 ⟨he, hnew⟩⟩

/-- The actions of the table append allowed events, whatever the environment does. -/
theorem keptWithin_table_allowedAfter (l : List Event) : KeptWithin .table (AllowedAfter l) where
  drive {x} _ b s h := by
    have hemit : AllowedAfter l (s.emit (.pin x b)) := h.emit trivial
    rcases drive_cases x b s with ⟨t, ht, hblock, -⟩ | ⟨d, t, ht, hblock, -⟩ <;> rw [ht]
    · exact AllowedAfter.sameBlock (s := (s.emit (.pin x b)).setLine x b) hemit hblock
    · exact AllowedAfter.sameBlock (s := (s.emit (.pin x b)).setLine x d) hemit hblock
  settle _ h := h.emit rfl
  xfer {t0 t1} hframe s h := by
    rcases xfer_cases t0 t1 s with ⟨r0, r1, t, ht, hblock, -⟩ | ⟨d0, d1, t, ht, hblock, -⟩ <;> rw [ht]
    · have hemit : AllowedAfter l (s.emit (.xfer t0 t1 r0 r1)) := h.emit hframe
      exact AllowedAfter.sameBlock (s := (s.emit (.xfer t0 t1 r0 r1)).setBuf r0 r1) hemit hblock
    · have hemit : AllowedAfter l (s.emit (.xferFail t0 t1)) := h.emit hframe
      exact AllowedAfter.sameBlock (s := (s.emit (.xferFail t0 t1)).setBuf d0 d1) hemit hblock
  writeComb _ _ h := h
  writeCfgtmp _ _ h := h
  loseRegister {r} _ s h := h.sameBlock (loseRegister_same r s).1

/-- Settles O54: the instruction's operation sends only frames of the table, so only allowed events are appended. -/
theorem onlyTableFramesAreSent : Obligations.OnlyTableFramesAreSent := by
  intro i s t hwf hexec
  obtain ⟨m, hm, hrun⟩ := exec_within_table hwf
  rcases hu : m (s.begin i) with ⟨r, u⟩
  rw [hrun, runCommand_eq hu] at hexec
  obtain rfl := Host.Outcome.next.inj hexec
  have hbegin : AllowedAfter s.log (s.begin i) := ⟨[], rfl, by simp⟩
  have hleft : AllowedAfter s.log u := ((keptWithin_table_allowedAfter s.log).keeps hm).after hbegin hu
  obtain ⟨new, hlog, hnew⟩ := hleft.sameBlock (settleChips_same s u).1
  exact ⟨new.reverse, by simp [State.trace, hlog], fun e he => hnew e (List.mem_reverse.1 he)⟩

end Sys2Proof.Machine
end

section
/-! SUPPORT. The statements of the family selector: the chip addresses (O8), a selection that completes (O18) or stops at
a failed drive (O19), and the operation layer's independence of earlier selections (O60). -/

namespace Sys2Proof.Machine

/-! ### The chip addresses (R41, R101) -/

theorem exists_chipAddr_eq_iff (a : ChipAddr) : (∃ d b, chipAddr d b = a) ↔ (chipAt a).isSome = true := by
  constructor
  · rintro ⟨d, b, rfl⟩
    rw [chipAt_chipAddr, Option.isSome_some]
  · intro h
    obtain ⟨⟨d, b⟩, hchip⟩ := Option.isSome_iff_exists.1 h
    exact ⟨d, b, ((chipAt_eq_some_iff a d b).1 hchip).symm⟩

theorem isSome_chipAt_iff : ∀ a : ChipAddr,
    (chipAt a).isSome = true ↔ a.toNat ∈ [0, 1, 2, 3, 4, 5, 8, 9, 10, 11, 12, 13] := by decide

/-- Settles O8: `chipAt` is the inverse of `chip_addr`, so `chip_addr` is injective and its range is where `chipAt`
names a chip. -/
theorem chipAddressesAreTheTwelveOfTheTable : Obligations.ChipAddressesAreTheTwelveOfTheTable := by
  refine ⟨fun b => ?values, fun d d' b b' h => ?injective, fun a => ?range, fun a d b => ?inverse⟩
  case values => cases b <;> decide
  case injective => simpa using congrArg chipAt h
  case range => exact (exists_chipAddr_eq_iff a).trans (isSome_chipAt_iff a)
  case inverse => exact (chipAt_eq_some_iff a d b).trans eq_comm

/-! ### Drives one after another (R11, R12) -/

theorem forEach_append {α : Type} (xs ys : List α) (f : α → Op Unit) :
    forEach (xs ++ ys) f = andThen (forEach xs f) fun _ => forEach ys f := by
  induction xs with
  | nil => rfl
  | cons x xs ih => rw [List.cons_append, forEach_cons, ih, forEach_cons, andThen_assoc]

/-- A list of drives, in order. -/
def driveAll (ds : List (Line × Bool)) : Op Unit := forEach ds fun d => drive d.1 d.2

/-- The latches after a list of drives. -/
def Lines.driven (l : Lines) (ds : List (Line × Bool)) : Lines := ds.foldl (fun l d => l.set d.1 d.2) l

/-- The state after a list of drives that succeed and that no chip answers; the environment's script is a matter of its
own. -/
def State.driven (s : State) (ds : List (Line × Bool)) : State :=
  { s with
    lines := Lines.driven s.lines ds
    log := (ds.map fun d => Event.pin d.1 d.2).reverse ++ s.log
    seq := Sequencer.advance^[ds.length] s.seq }

theorem driven_cons (s : State) (d : Line × Bool) (ds : List (Line × Bool)) :
    s.driven (d :: ds) = ((s.emit (.pin d.1 d.2)).setLine d.1 d.2).driven ds := by
  simp only [State.driven, Lines.driven, State.emit, State.setLine, List.foldl_cons, List.map_cons, List.reverse_cons,
    List.append_assoc, List.cons_append, List.nil_append, List.length_cons, Function.iterate_succ_apply]

/-- A drive that does not fail, of a line that the chips do not watch, is its event and its level. -/
theorem drive_ok_of_choice {s u : State} {c : EnvChoice} {x : Line} {b : Bool} (hx : x ≠ .load)
    (hc : driveChoice x b s = (c, u)) (hok : c.fails = false) :
    drive x b s = (.ok (), (u.emit (.pin x b)).setLine x b) := by
  simp [drive, hc, hok, chipsSeeDrive_still hx]

/-- A drive of such a line that fails is its event, with a draw left in the latch (R12, U6). -/
theorem drive_err_of_choice {s u : State} {c : EnvChoice} {x : Line} {b : Bool} (hx : x ≠ .load)
    (hc : driveChoice x b s = (c, u)) (hbad : c.fails = true) :
    drive x b s = (.err (.transport .pinDrive), (u.emit (.pin x b)).setLine x (c.b0.getLsbD 0)) := by
  cases x <;> simp [drive, hc, hbad, chipsSeeFailedDrive] at hx ⊢

/-- With an environment that fails no drive at all, the drives are done and nothing is asked. -/
theorem driveAll_unasked {ds : List (Line × Bool)} (hds : ∀ d ∈ ds, d.1 ≠ Line.load) {s : State}
    (hs : ¬(s.env = .oracle ∧ s.cfg.pinDriveCanFail = true)) : driveAll ds s = (.ok (), s.driven ds) := by
  induction ds generalizing s with
  | nil => rfl
  | cons d ds ih =>
    obtain ⟨hd, hds⟩ := List.forall_mem_cons.1 hds
    have hdrive := drive_ok_of_choice (b := d.2) hd (if_neg hs) rfl
    rw [driveAll, forEach_cons, andThen_ok hdrive, driven_cons]
    exact ih hds hs

/-- With as many scripted choices as drives, none a failure, the drives are done and the choices consumed. -/
theorem driveAll_scripted {ds : List (Line × Bool)} (hds : ∀ d ∈ ds, d.1 ≠ Line.load) {good rest : List EnvChoice}
    (hlen : good.length = ds.length) (hgood : ∀ c ∈ good, c.fails = false) {s : State} (he : s.env = .oracle)
    (hp : s.cfg.pinDriveCanFail = true) (hs : s.script = good ++ rest) :
    driveAll ds s = (.ok (), ({ s with script := rest } : State).driven ds) := by
  induction ds generalizing s good with
  | nil =>
    obtain rfl := List.length_eq_zero_iff.1 hlen
    rw [List.nil_append] at hs
    subst hs
    rfl
  | cons d ds ih =>
    obtain _ | ⟨c, good⟩ := good
    · cases hlen
    obtain ⟨hd, hds⟩ := List.forall_mem_cons.1 hds
    obtain ⟨hc, hgood⟩ := List.forall_mem_cons.1 hgood
    have hdrive := drive_ok_of_choice hd (driveChoice_scripted d.1 d.2 he hp hs) hc
    rw [driveAll, forEach_cons, andThen_ok hdrive, driven_cons]
    exact ih hds (Nat.succ.inj hlen) hgood he hp rfl

/-- The drives stop at the first that fails (R209). -/
theorem driveAll_fails {done after : List (Line × Bool)} {d : Line × Bool} (hdone : ∀ e ∈ done, e.1 ≠ Line.load)
    (hd : d.1 ≠ .load) {good rest : List EnvChoice} {bad : EnvChoice} (hlen : good.length = done.length)
    (hgood : ∀ c ∈ good, c.fails = false) (hbad : bad.fails = true) {s : State} (he : s.env = .oracle)
    (hp : s.cfg.pinDriveCanFail = true) (hs : s.script = good ++ bad :: rest) :
    driveAll (done ++ d :: after) s = (.err (.transport .pinDrive),
      ((({ s with script := rest } : State).driven done).emit (.pin d.1 d.2)).setLine d.1 (bad.b0.getLsbD 0)) := by
  have hok := driveAll_scripted hdone hlen hgood he hp hs
  have hfail := drive_err_of_choice hd
    (driveChoice_scripted (s := ({ s with script := bad :: rest } : State).driven done) d.1 d.2 he hp rfl) hbad
  rw [driveAll, forEach_append, ← driveAll, andThen_ok hok, forEach_cons, andThen_err hfail]
  rfl

/-! ### The four select drives (R102) -/

/-- Select line `A[k]`. -/
def selectLine (k : Nat) : Line := [Line.a0, .a1, .a2, .a3].getD k .a0

/-- The drives of a selection, ascending. -/
def selectDrives (a : ChipAddr) : List (Line × Bool) :=
  [(.a0, a.getLsbD 0), (.a1, a.getLsbD 1), (.a2, a.getLsbD 2), (.a3, a.getLsbD 3)]

theorem selectAddress_eq (a : ChipAddr) : selectAddress a = andThen (driveAll (selectDrives a)) fun _ => settle := by
  simp only [selectAddress, driveAll, selectDrives, forEach_cons, forEach_nil, andThen_assoc, andThen_ret]

theorem selectDrives_ne_load (a : ChipAddr) : ∀ d ∈ selectDrives a, d.1 ≠ Line.load := by
  simp [selectDrives]

/-- The instructions that select and nothing else run the operation `SELECT`. -/
theorem select_exec {i : Instr} {d : Direction} {b : Bank} (h : i = .select d b ∨ i = selCode d b) (s : State) :
    exec i s = runCommand i (asUnit (opSelect d b)) s := by
  rcases h with rfl | rfl
  · rfl
  · cases d <;> cases b <;> rfl

/-- Settles O18: the instruction is its selection, and settling the chips touches no part of the block. -/
theorem selectPlacesTheChipAddress : Obligations.SelectPlacesTheChipAddress := by
  intro i d b s h hq
  obtain ⟨u, hu, -, hlog, hlines, hbuf0, hbuf1, hcomb, hcfgtmp, ⟨hworld, -⟩, hchips, -⟩ :=
    select_quiet (n := 0) (s := s.begin i) (chipAddr d b) hq
  have hrun : asUnit (opSelect d b) (s.begin i) = (.ok .unit, u) := andThen_ok hu
  obtain ⟨hsettled, -⟩ := settleChips_same s u
  refine ⟨_, ⟨(select_exec h s).trans (runCommand_eq hrun), rfl, ?trace, rfl, ?world⟩, ?lines, ?address, ?working,
    fun hrules => ?chips⟩
  case trace => simp [State.trace, hsettled, hlog]
  case world => simpa [SameWorld, hsettled] using hworld
  case lines => simp [hsettled, hlines, Lines.withAddress]
  case address => simp [Addresses, hsettled, hlines]
  case working => simp [SameWorking, hsettled, hbuf0, hbuf1, hcomb, hcfgtmp]
  case chips => rw [settleChips_still (.inl hrules), complete_chips, hchips, begin_chips]

/-! ### A selection that fails (R104) -/

section FailedDrive

variable (a : ChipAddr) {n : Nat} (hn : n < 4)

include hn

theorem selectDrives_split :
    selectDrives a = (selectDrives a).take n ++ (selectLine n, a.getLsbD n) :: (selectDrives a).drop (n + 1) := by
  interval_cases n <;> rfl

/-- The events up to and with drive `n`. -/
theorem selectTrace_take_succ : (selectTrace a).take (n + 1) =
    ((selectDrives a).take n).map (fun d => Event.pin d.1 d.2) ++ [.pin (selectLine n) (a.getLsbD n)] := by
  interval_cases n <;> rfl

/-- The latches when drive `n` has left `v` in its own: the select lines below hold the new bits, those above the old. -/
theorem get_selectLine_failed (l : Lines) (v : Bool) {j : Nat} (hj : j < 4) :
    ((Lines.driven l ((selectDrives a).take n)).set (selectLine n) v).get (selectLine j) =
      if j < n then a.getLsbD j else if j = n then v else l.get (selectLine j) := by
  interval_cases n <;> interval_cases j <;> rfl

theorem cs_load_failed (l : Lines) (v : Bool) :
    ((Lines.driven l ((selectDrives a).take n)).set (selectLine n) v).cs = l.cs ∧
      ((Lines.driven l ((selectDrives a).take n)).set (selectLine n) v).load = l.load := by
  interval_cases n <;> exact ⟨rfl, rfl⟩

/-- A selection whose drive `n` fails has done the drives below it and nothing else. -/
theorem selectAddress_fails {good rest : List EnvChoice} {bad : EnvChoice} (hlen : good.length = n)
    (hgood : ∀ c ∈ good, c.fails = false) (hbad : bad.fails = true) {s : State} (he : s.env = .oracle)
    (hp : s.cfg.pinDriveCanFail = true) (hs : s.script = good ++ bad :: rest) :
    ∃ u, selectAddress a s = (.err (.transport .pinDrive), u) ∧
      u.log = ((selectTrace a).take (n + 1)).reverse ++ s.log ∧
      u.lines = (Lines.driven s.lines ((selectDrives a).take n)).set (selectLine n) (bad.b0.getLsbD 0) ∧
      SameWorking s u ∧ u.script = rest ∧ u.chips = s.chips := by
  have hdone : ∀ d ∈ (selectDrives a).take n, d.1 ≠ Line.load := fun d hd =>
    selectDrives_ne_load a d (List.mem_of_mem_take hd)
  have hline : selectLine n ≠ .load := by interval_cases n <;> decide
  have hlen' : good.length = ((selectDrives a).take n).length := by
    rw [hlen, List.length_take, min_eq_left (show n ≤ (selectDrives a).length from hn.le)]
  have hdrives := driveAll_fails (after := (selectDrives a).drop (n + 1)) (d := (selectLine n, a.getLsbD n))
    hdone hline hlen' hgood hbad he hp hs
  rw [← selectDrives_split a hn] at hdrives
  refine ⟨_, (congrFun (selectAddress_eq a) s).trans (andThen_err hdrives), ?_, rfl, ⟨rfl, rfl, rfl, rfl⟩, rfl, rfl⟩
  rw [selectTrace_take_succ a hn, List.reverse_append]
  rfl

end FailedDrive

/-- Settles O19: the drives up to the failed one are done, and nothing after it. -/
theorem selectStopsAtTheFailedDrive : Obligations.SelectStopsAtTheFailedDrive := by
  intro i d b s good rest bad h he hp hs hn hgood hbad
  obtain ⟨u, hu, hlog, hlines, hworking, hscript, hchips⟩ :=
    selectAddress_fails (chipAddr d b) hn (s := s.begin i) rfl hgood hbad he hp hs
  have hrun : asUnit (opSelect d b) (s.begin i) = (.err (.transport .pinDrive), u) := andThen_err hu
  obtain ⟨hsettled, hkept⟩ := settleChips_same s u
  have hlatches : (settleChips s u).lines = u.lines := by simp only [hsettled]
  obtain ⟨hcs, hload⟩ := cs_load_failed (chipAddr d b) hn s.lines (bad.b0.getLsbD 0)
  refine ⟨_, (select_exec h s).trans (runCommand_eq hrun), rfl, ?trace, fun j hj => ?select, ?cs, ?load, ?working, ?script,
    fun hidle => ?chips⟩
  case trace => simp [State.trace, hsettled, hlog]
  case select =>
    rw [complete_lines, hlatches, hlines]
    exact get_selectLine_failed _ hn s.lines _ hj
  case cs => rw [complete_lines, hlatches, hlines, begin_lines, hcs]
  case load => rw [complete_lines, hlatches, hlines, begin_lines, hload]
  case working => simpa [SameWorking, hsettled] using hworking
  case script => exact hkept.trans hscript
  case chips => rw [settleChips_still (.inl (.inr hidle)), complete_chips, hchips, begin_chips]

/-! ### Operations that select before anything else (R105, R180) -/

/-- The select lines holding another address, everything else the same. -/
def State.atAddress (s : State) (a : ChipAddr) : State := { s with lines := s.lines.withAddress a }

/-- An operation that does the same whatever address the select lines held, when no select drive fails. -/
def Reselects {α : Type} (m : Op α) : Prop := ∀ (s : State) (a : ChipAddr), Quiet 4 s → m (s.atAddress a) = m s

theorem Reselects.andThen {α β : Type} {m : Op α} (hm : Reselects m) (k : α → Op β) : Reselects (andThen m k) := by
  intro s a hq
  simp only [Machine.andThen, hm s a hq]

/-- A selection drives all four select lines, so the state it leaves is the same. -/
theorem reselects_opSelect (d : Direction) (b : Bank) : Reselects (opSelect d b) := by
  intro s a hq
  have hdrives : driveAll (selectDrives (chipAddr d b)) (s.atAddress a) = driveAll (selectDrives (chipAddr d b)) s := by
    by_cases hask : s.env = .oracle ∧ s.cfg.pinDriveCanFail = true
    case neg =>
      rw [driveAll_unasked (selectDrives_ne_load _) hask,
        driveAll_unasked (s := s.atAddress a) (selectDrives_ne_load _) hask]
      rfl
    case pos =>
      obtain ⟨he, hp⟩ := hask
      obtain hr | ⟨hlen, hgood⟩ := hq
      · cases he.symm.trans hr
      have hscript : s.script = s.script.take 4 ++ s.script.drop 4 := (List.take_append_drop 4 s.script).symm
      have hfour : (s.script.take 4).length = 4 := List.length_take_of_le hlen
      rw [driveAll_scripted (selectDrives_ne_load _) hfour hgood he hp hscript,
        driveAll_scripted (s := s.atAddress a) (selectDrives_ne_load _) hfour hgood he hp hscript]
      rfl
  simp only [opSelect, selectAddress_eq, andThen, hdrives]

/-- A logical address in range is located without a look at the state (R161, R162). -/
theorem exists_locate_eq_ret {l : BitVec 8} (h : 1 ≤ l.toNat ∧ l.toNat ≤ 48) (e : ErrKind) :
    ∃ bk, locate l e = ret bk := by
  have hrange : logicalInRange l = true := by simp [logicalInRange, Config.nLogical, h]
  have hbank : (bankOfOrdinal? (logicalBankOrdinal l)).isSome = true := by
    rw [isSome_bankOfOrdinal?, logicalBankOrdinal, Config.nLocal, Bool.and_eq_true, decide_eq_true_eq, decide_eq_true_eq]
    omega
  obtain ⟨b, hb⟩ := Option.isSome_iff_exists.1 hbank
  exact ⟨(b, logicalLocal l), by rw [locate, hrange, require_true, andThen_ret, hb]⟩

theorem reselects_locate {α : Type} {l : BitVec 8} (h : 1 ≤ l.toNat ∧ l.toNat ≤ 48) (e : ErrKind)
    {k : Bank × Nat → Op α} (hk : ∀ bk, Reselects (k bk)) : Reselects (andThen (locate l e) k) := by
  obtain ⟨bk, hbk⟩ := exists_locate_eq_ret h e
  rw [hbk, andThen_ret]
  exact hk bk

/-- Every operation-layer command that reaches the bus runs an operation that selects before anything else (R180). -/
theorem ReachesBus.exec_reselects {i : Instr} (h : ReachesBus i) :
    ∃ m : Op Value, Reselects m ∧ ∀ s, exec i s = runCommand i m s := by
  cases h with
  | init => exact ⟨_, (((reselects_opSelect .dout .b1).andThen _).andThen _).andThen _, fun _ => rfl⟩
  | setOutput v l hl =>
    exact ⟨_, (reselects_locate hl _ fun bk => (reselects_opSelect .dout bk.1).andThen _).andThen _, fun _ => rfl⟩
  | outputState l hl =>
    exact ⟨_, (reselects_locate hl _ fun bk => (reselects_opSelect .dout bk.1).andThen _).andThen _, fun _ => rfl⟩
  | outputSupply b => exact ⟨_, ((reselects_opSelect .dout b).andThen _).andThen _, fun _ => rfl⟩
  | outputThermal b => exact ⟨_, ((reselects_opSelect .dout b).andThen _).andThen _, fun _ => rfl⟩
  | input l hl =>
    exact ⟨_, (reselects_locate hl _ fun bk => (reselects_opSelect .din bk.1).andThen _).andThen _, fun _ => rfl⟩
  | inputSupply b => exact ⟨_, ((reselects_opSelect .din b).andThen _).andThen _, fun _ => rfl⟩
  | inputThermal b => exact ⟨_, ((reselects_opSelect .din b).andThen _).andThen _, fun _ => rfl⟩

/-- Settling the chips looks at `CS` and `LOAD` and at no select line (R241, R244). -/
theorem settleChips_atAddress (s t : State) (a : ChipAddr) : settleChips (s.atAddress a) t = settleChips s t := rfl

/-- Settles O60: the operation of the command does the same, and so does settling the chips. -/
theorem operationLayerIgnoresEarlierSelection : Obligations.OperationLayerIgnoresEarlierSelection := by
  intro i s a h hq
  obtain ⟨m, hm, hrun⟩ := h.exec_reselects
  calc exec i (s.atAddress a)
      = runCommand i m (s.atAddress a) := hrun _
    _ = .next ((settleChips (s.atAddress a) (m ((s.begin i).atAddress a)).2).complete
          (rspWord (m ((s.begin i).atAddress a)).1)) := rfl
    _ = runCommand i m s := by rw [hm (s.begin i) a hq, settleChips_atAddress, runCommand]
    _ = exec i s := (hrun s).symm

end Sys2Proof.Machine
end

section
/-! SUPPORT. The statements of the family port expander: the packed configuration field (O6), a port outside its range
(O40), the operations of a port when the environment fails nothing (O23 to O26), and that no instruction puts an awake
chip back to the low-power state (O58). -/

namespace Sys2Proof.Machine

/-! ### The packed configuration field (R74, R120) -/

/-- The bits of an updated byte: those of the new field in its two places, those of the old byte elsewhere. -/
theorem getLsbD_updateField (old : Byte) (off : Nat) (bits : BitVec 2) {k : Nat} (hk : k < 8) :
    (updateField old off bits).getLsbD k =
      if off ≤ k ∧ k < off + 2 then bits.getLsbD (k - off) else old.getLsbD k := by
  have hmask : (0b11 : Byte) = (BitVec.allOnes 2).setWidth 8 := rfl
  simp only [updateField, hmask, BitVec.getLsbD_or, BitVec.getLsbD_and, BitVec.getLsbD_not, BitVec.getLsbD_shiftLeft,
    BitVec.getLsbD_setWidth, BitVec.getLsbD_allOnes, hk]
  by_cases hlo : k < off
  · simp [hlo, Nat.not_le.2 hlo]
  · have hrest : k - off < 8 ∧ off ≤ k ∧ (k - off < 2 ↔ k < off + 2) := by omega
    by_cases hhi : k < off + 2
    · simp [hlo, hhi, hrest]
    · have hbit : bits.getLsbD (k - off) = false := BitVec.getLsbD_of_ge _ _ (by omega)
      simp [hlo, hhi, hrest, hbit]

/-- The field that was written reads back. -/
theorem cfgField_updateField_same (old : Byte) {off : Nat} (bits : BitVec 2) (hoff : off + 2 ≤ 8) :
    cfgField (updateField old off bits) off = bits := by
  refine BitVec.eq_of_getLsbD_eq fun j hj => ?_
  rw [cfgField, BitVec.getLsbD_extractLsb', getLsbD_updateField old off bits (by omega), if_pos (by omega)]
  simp [hj]

/-- A field that does not overlap the written one reads as before. -/
theorem cfgField_updateField_other (old : Byte) {off off' : Nat} (bits : BitVec 2) (hoff' : off' + 2 ≤ 8)
    (hne : off' + 2 ≤ off ∨ off + 2 ≤ off') : cfgField (updateField old off bits) off' = cfgField old off' := by
  refine BitVec.eq_of_getLsbD_eq fun j hj => ?_
  simp only [cfgField, BitVec.getLsbD_extractLsb']
  rw [getLsbD_updateField old off bits (by omega), if_neg (by omega)]

/-- Of two offsets of fields that differ, each field ends before the other begins. -/
theorem field_offsets_apart {off off' : Nat} (h : off ∈ [0, 2, 4, 6]) (h' : off' ∈ [0, 2, 4, 6]) (hne : off' ≠ off) :
    off' + 2 ≤ off ∨ off + 2 ≤ off' := by
  simp only [List.mem_cons, List.not_mem_nil, or_false] at h h'
  omega

/-- Settles O6, each law bit by bit. -/
theorem updateFieldChangesOnlyItsField : Obligations.UpdateFieldChangesOnlyItsField := by
  intro old off bits hoff
  have hle : off + 2 ≤ 8 := by
    simp only [List.mem_cons, List.not_mem_nil, or_false] at hoff
    omega
  refine ⟨?formula, cfgField_updateField_same old bits hle, fun k hk hne hne' => ?others, fun bits' => ?last,
    fun off' bits' hoff' hne => ?commute⟩
  case formula => rw [updateField, show (0xFF : Byte) = BitVec.allOnes 8 from rfl, BitVec.and_allOnes]
  case others => rw [getLsbD_updateField old off bits hk, if_neg (by omega)]
  case last =>
    refine BitVec.eq_of_getLsbD_eq fun k hk => ?_
    simp only [getLsbD_updateField _ _ _ hk]
    split <;> rfl
  case commute =>
    have hapart := field_offsets_apart hoff hoff' hne
    refine BitVec.eq_of_getLsbD_eq fun k hk => ?_
    simp only [getLsbD_updateField _ _ _ hk]
    by_cases hin : off ≤ k ∧ k < off + 2
    · rw [if_pos hin, if_neg (by omega), if_pos hin]
    · rw [if_neg hin, if_neg hin]

/-! ### Turned away before any interface action (R114) -/

/-- A command whose operation raises an error at once changes the response and nothing else. -/
theorem turnedAway_of_raise {i : Instr} {m : Op Value} {s : State} {e : ErrKind}
    (hexec : exec i s = runCommand i m s) (hm : m = raise e) : TurnedAway i s e := by
  have hrun : m (s.begin i) = (.err e, s.begin i) := by
    rw [hm]
    rfl
  rw [TurnedAway, hexec, runCommand_eq hrun, settleChips_still (.inr rfl)]
  rfl

/-- An operation that checks its port first ends there when the port is out of range. -/
theorem checkPort_out {α : Type} {p : Byte} (hp : p.toNat < 4 ∨ 31 < p.toNat) (k : Unit → Op α) :
    andThen (checkPort p) k = raise .illegalOutput := by
  have hout : portInRange p = false := by
    rw [portInRange, Bool.and_eq_false_iff, decide_eq_false_iff_not, decide_eq_false_iff_not, Config.portMin,
      Config.portMax]
    omega
  rw [checkPort, hout, require_false, andThen_raise]

/-- Settles O40: the port check is the first thing each of the operations does. -/
theorem portOutsideRangeIsTurnedAway : Obligations.PortOutsideRangeIsTurnedAway := by
  intro p s hp
  have hwrite (l : Level) : opWritePort l p = raise .illegalOutput := checkPort_out hp _
  have hread : opReadPort p = raise .illegalOutput := checkPort_out hp _
  have hbits (bits : BitVec 2) : opCfgBits bits p = raise .illegalOutput := checkPort_out hp _
  refine ⟨fun l => turnedAway_of_raise (m := asUnit (opWritePort l p)) rfl ?_,
    turnedAway_of_raise (m := andThen (opReadPort p) fun l => ret (.level l)) rfl ?_,
    fun l => turnedAway_of_raise (m := asUnit (opCfgOutput l p)) rfl ?_,
    fun u => turnedAway_of_raise (m := asUnit (opCfgInput u p)) rfl ?_,
    fun bits => turnedAway_of_raise (m := asUnit (opCfgBits bits p)) rfl ?_⟩
  · rw [hwrite, asUnit, andThen_raise]
  · rw [hread, andThen_raise]
  · rw [opCfgOutput, hwrite, andThen_raise, asUnit, andThen_raise]
  · rw [opCfgInput, hbits, asUnit, andThen_raise]
  · rw [hbits, asUnit, andThen_raise]

/-! ### A command that runs to a value (R24, R244) -/

/-- A command whose operation ran to a value completes with the events of that run; settling the chips touches no part
of the block, and no chip in a command the rules describe. -/
theorem completes_of_run {i : Instr} {m : Op Value} {s u : State} {v : Value} {ev : List Event}
    (hexec : exec i s = runCommand i m s) (hrun : m (s.begin i) = (.ok v, u)) (hlog : u.log = ev.reverse ++ s.log)
    (hworld : SameWorld s u) :
    ∃ t, Completes i s v ev t ∧ SameWorking u t ∧ t.lines = u.lines ∧ (ChipsFollowRules s → t.chips = u.chips) := by
  obtain ⟨hsettled, -⟩ := settleChips_same s u
  refine ⟨_, ⟨hexec.trans (runCommand_eq hrun), rfl, ?trace, rfl, ?world⟩, ?working, ?lines, fun hrules => ?chips⟩
  case trace => simp [State.trace, hsettled, hlog]
  case world => simpa [SameWorld, hsettled] using hworld
  case working => simp [SameWorking, hsettled]
  case lines => simp [hsettled]
  case chips => rw [settleChips_still (.inl hrules), complete_chips]

/-! ### Frames one after another, undisturbed (R111 to R113) -/

/-- From `s` to `t` frames with the events `ev` were sent: `CS` is high, and but for `BUF` and `CFGTMP` the rest of the
block and the world are as before. -/
structure SentFrames (ev : List Event) (s t : State) : Prop where
  log : t.log = ev.reverse ++ s.log
  lines : t.lines = { s.lines with cs := true }
  comb : t.comb = s.comb
  world : SameWorld s t

theorem SentFrames.trans {ev ev' : List Event} {s t u : State} (h : SentFrames ev s t) (k : SentFrames ev' t u) :
    SentFrames (ev ++ ev') s u where
  log := by rw [k.log, h.log, List.reverse_append, List.append_assoc]
  lines := by rw [k.lines, h.lines]
  comb := k.comb.trans h.comb
  world := h.world.trans k.world

theorem SentFrames.address {ev : List Event} {s t : State} (h : SentFrames ev s t) :
    t.lines.address = s.lines.address := by
  rw [h.lines]
  rfl

theorem SentFrames.setCfgtmp {ev : List Event} {s t : State} (h : SentFrames ev s t) (v : Byte) :
    SentFrames ev s (t.setCfgtmp v) := ⟨h.log, h.lines, h.comb, h.world⟩

/-- A frame sets no pending value of a port expander that is not addressed. -/
theorem chipsTake_pend_other (t0 t1 : Byte) {s : State} {b : Bank} (hb : ¬Addresses s .dout b) :
    (chipsTake t0 t1 s).chips.pend.get b = s.chips.pend.get b := by
  by_cases hun : ∀ b', ¬Addresses s .dout b'
  · rw [chipsTake_unaddressed t0 t1 hun]
  · obtain ⟨b', hb'⟩ := not_forall_not.1 hun
    have hne : b ≠ b' := fun h => hb (h ▸ hb')
    rw [chipsTake_addressed t0 t1 hb']
    unfold expanderTakes
    split
    · exact captureRead_pend_other _ s hne
    · split <;> rfl

/-- From `s` to `t` the chips took a read: nothing was stored, and only the addressed port expander may have captured a
value. -/
structure ChipsRead (s t : State) : Prop where
  regs : t.chips.regs = s.chips.regs
  lat : t.chips.lat = s.chips.lat
  pend : ∀ b, ¬Addresses s .dout b → t.chips.pend.get b = s.chips.pend.get b
  unaddressed : (∀ b, ¬Addresses s .dout b) → t.chips = s.chips

theorem ChipsRead.setCfgtmp {s t : State} (h : ChipsRead s t) (v : Byte) : ChipsRead s (t.setCfgtmp v) :=
  ⟨h.regs, h.lat, h.pend, h.unaddressed⟩

/-- From `s` to `t` the chips took a write of `v` to the register of byte `r`, and possibly a read: of the memory the
addressed port expander's register alone has changed, and no pending value but that chip's. -/
structure ChipsWritten (r v : Byte) (s t : State) : Prop where
  wf : memWf t.chips.regs = true
  lat : t.chips.lat = s.chips.lat
  pend : ∀ b, ¬Addresses s .dout b → t.chips.pend.get b = s.chips.pend.get b
  stored : ∀ b, Addresses s .dout b → memRead t.chips.regs (regAddr b (regOf r)) = v
  mem : ∀ b, Addresses s .dout b → SameMemExcept (regAddr b (regOf r)) s t
  unaddressed : (∀ b, ¬Addresses s .dout b) → t.chips = s.chips

/-- A write after a read of the same chips. -/
theorem ChipsRead.thenWritten {r v : Byte} {s t u : State} (h : ChipsRead s t) (k : ChipsWritten r v t u)
    (ha : t.lines.address = s.lines.address) : ChipsWritten r v s u := by
  obtain ⟨hregs, hlat, hpend, hun⟩ := h
  obtain ⟨kwf, klat, kpend, kstored, kmem, kun⟩ := k
  simp only [Addresses, SameMemExcept, ha, hregs] at kpend kstored kmem kun
  exact ⟨kwf, klat.trans hlat, fun b hb => (kpend b hb).trans (hpend b hb), kstored, kmem,
    fun hb => (kun hb).trans (hun hb)⟩

/-- A quiet register read (R113), as far as it concerns the operations of a port. -/
theorem regRead_sends {n : Nat} {s : State} (r : Byte) (h : Quiet (n + 6) s) :
    ∃ q a t, regRead r s = (.ok (respByte s.cfg a), t) ∧ Quiet n t ∧ SentFrames (regReadTrace r q a) s t ∧
      t.buf0 = a.1 ∧ t.buf1 = a.2 ∧ t.cfgtmp = s.cfgtmp ∧ ChipsRead s t := by
  obtain ⟨q, a, t, hrun, hq, hlog, hlines, hbuf0, hbuf1, hcomb, hcfgtmp, ⟨hworld, -⟩, hchips, -⟩ := regRead_quiet r h
  refine ⟨q, a, t, hrun, hq, ⟨hlog, hlines, hcomb, hworld⟩, hbuf0, hbuf1, hcfgtmp, ?_⟩
  constructor <;> rw [hchips]
  · exact chipsTake_regs 0x00 s (.inl (readRequest_isRequest r))
  · exact chipsTake_lat _ _ s
  · exact fun b hb => chipsTake_pend_other _ _ hb
  · exact fun hun => by rw [chipsTake_unaddressed _ _ hun]

/-- A quiet register write (R112): in canonical memory the chips took that write. -/
theorem regWrite_sends {n : Nat} {s : State} {r : Byte} (v : Byte) (hw : r.getLsbD 7 = false) (hz : r ≠ 0x00)
    (h : Quiet (n + 3) s) :
    ∃ (a : Byte × Byte) (t : State), regWrite r v s = (.ok (), t) ∧ Quiet n t ∧
      SentFrames (frameTrace r v a.1 a.2) s t ∧ t.buf0 = a.1 ∧ t.buf1 = a.2 ∧
      t.cfgtmp = s.cfgtmp ∧ (memWf s.chips.regs = true → ChipsWritten r v s t) := by
  obtain ⟨r0, r1, t, hrun, hq, hlog, hlines, hbuf0, hbuf1, hcomb, hcfgtmp, ⟨hworld, -⟩, hchips, -⟩ :=
    regWrite_quiet r v h
  refine ⟨(r0, r1), t, hrun, hq, ⟨hlog, hlines, hcomb, hworld⟩, hbuf0, hbuf1, hcfgtmp, fun hwf => ?_⟩
  constructor <;> simp only [SameMemExcept, hchips]
  · exact chipsTake_wf r v s hwf
  · exact chipsTake_lat r v s
  · exact fun b hb => chipsTake_pend_other r v hb
  · exact fun b hb => (chipsTake_write_frame v hb hw hz hwf).1
  · exact fun b hb => chipsTake_mem r v hb
  · exact fun hun => by rw [chipsTake_unaddressed r v hun]

/-! ### The operations of a port, undisturbed (R115, R116, R121 to R123) -/

section Ports

variable {n : Nat} {s : State} {p : Byte} (hlo : 4 ≤ p.toNat) (hhi : p.toNat ≤ 31)
include hlo hhi

/-- The request bytes of a port's two registers (R73). -/
theorem readRequest_of_port : readRequest (portReg p) = 0xA0 + p ∧ readRequest (cfgReg p) = 0x88 ||| cfgIndex p := by
  obtain ⟨-, -, -, hport, -, -, -, -, -, -, -, -, -, hcfg, -⟩ := registerBytesOfPorts p hlo hhi
  exact ⟨hport, hcfg⟩

/-- With its port in range, an operation that checks it first goes on. -/
theorem checkPort_in {α : Type} (k : Unit → Op α) : andThen (checkPort p) k = k () := by
  rw [checkPort, portInRange_of_bounds hlo hhi, require_true, andThen_ret]

/-- A port read is a register read, reduced to a level. -/
theorem opReadPort_sends (h : Quiet (n + 6) s) :
    ∃ q a t, opReadPort p s = (.ok (levelOfByte (respByte s.cfg a)), t) ∧
      SentFrames (regReadTrace (portReg p) q a) s t ∧ t.buf0 = a.1 ∧ t.buf1 = a.2 ∧ t.cfgtmp = s.cfgtmp ∧
      ChipsRead s t := by
  obtain ⟨q, a, t, hrun, -, hsent, hbuf0, hbuf1, hcfgtmp, hchips⟩ := regRead_sends (portReg p) h
  refine ⟨q, a, t, ?_, hsent, hbuf0, hbuf1, hcfgtmp, hchips⟩
  rw [opReadPort, checkPort_in hlo hhi, andThen_ok hrun]
  rfl

/-- A port write of a level that has an encoding is one write to the port's register. -/
theorem opWritePort_sends {l : Level} (hl : l ≠ .low) (h : Quiet (n + 3) s) :
    ∃ (a : Byte × Byte) (t : State), opWritePort l p s = (.ok (), t) ∧ Quiet n t ∧
      SentFrames (frameTrace (portReg p) (if l = .high then 0x01 else 0x00) a.1 a.2) s t ∧
      (memWf s.chips.regs = true → ChipsWritten (portReg p) (if l = .high then 0x01 else 0x00) s t) := by
  obtain ⟨hw, hz⟩ := portReg_isWrite hlo hhi
  obtain ⟨a, t, hrun, hq, hsent, -, -, -, hchips⟩ := regWrite_sends (if l = .high then 0x01 else 0x00) hw hz h
  refine ⟨a, t, ?_, hq, hsent, hchips⟩
  rw [opWritePort, checkPort_in hlo hhi, ← hrun]
  cases l with
  | low => exact absurd rfl hl
  | high | hiz => rfl

/-- A field update reads the port's configuration register and writes it back with the field replaced, in `CFGTMP`
too. -/
theorem opCfgBits_sends (bits : BitVec 2) (h : Quiet (n + 9) s) :
    ∃ (q a r : Byte × Byte) (v : Byte) (t : State), v = updateField (respByte s.cfg a) (cfgOffset p) bits ∧
      opCfgBits bits p s = (.ok (), t) ∧
      SentFrames (regReadTrace (cfgReg p) q a ++ frameTrace (cfgReg p) v r.1 r.2) s t ∧
      t.cfgtmp = v ∧ t.buf0 = r.1 ∧ t.buf1 = r.2 ∧ (memWf s.chips.regs = true → ChipsWritten (cfgReg p) v s t) := by
  obtain ⟨hw, hz, -⟩ := cfgReg_isWrite hhi
  obtain ⟨q, a, u, hread, hq, hsent, -, -, -, hchips⟩ := regRead_sends (n := n + 3) (cfgReg p) h
  obtain ⟨v, hv⟩ : ∃ v, v = updateField (respByte s.cfg a) (cfgOffset p) bits := ⟨_, rfl⟩
  replace hsent := (hsent.setCfgtmp (respByte s.cfg a)).setCfgtmp v
  replace hchips := (hchips.setCfgtmp (respByte s.cfg a)).setCfgtmp v
  obtain ⟨r, t, hwrite, -, hsent', hbuf0, hbuf1, hcfgtmp, hwritten⟩ := regWrite_sends
    (s := (u.setCfgtmp (respByte s.cfg a)).setCfgtmp v) v hw hz (quiet_congr rfl rfl hq)
  refine ⟨q, a, r, v, t, hv, ?run, hsent.trans hsent', hcfgtmp, hbuf0, hbuf1, fun hwf => ?chips⟩
  case run =>
    rw [opCfgBits, checkPort_in hlo hhi, andThen_ok hread, andThen_writeCfgtmp, andThen_writeCfgtmp, ← hv]
    exact onError_ok hwrite
  case chips => exact hchips.thenWritten (hwritten (by rw [hchips.regs, hwf])) hsent.address

end Ports

/-- The instructions of one field update run it, for a port in range (R121, R123). -/
theorem oneField_exec {i : Instr} {bits : BitVec 2} {p : Byte} (h : OneField i bits p) :
    4 ≤ p.toNat ∧ p.toNat ≤ 31 ∧ ∀ s, exec i s = runCommand i (asUnit (opCfgBits bits p)) s := by
  cases h with
  | bits _ _ hp => exact ⟨hp.1, hp.2, fun _ => rfl⟩
  | input _ hp => exact ⟨hp.1, hp.2, fun _ => rfl⟩
  | inputPullup _ hp => exact ⟨hp.1, hp.2, fun _ => rfl⟩

/-- Settles O23: the port read is a register read, whose response byte gives the level. -/
theorem readPortReturnsTheResponseByte : Obligations.ReadPortReturnsTheResponseByte := by
  intro p s hlo hhi hq
  obtain ⟨q, a, u, hrun, ⟨hlog, hlines, hcomb, hworld⟩, hbuf0, hbuf1, hcfgtmp, hregs, hlat, hpend, -⟩ :=
    opReadPort_sends (n := 0) (s := s.begin (.peReadPort p)) hlo hhi hq
  rw [regReadTrace, (readRequest_of_port hlo hhi).1] at hlog
  obtain ⟨t, hcompletes, ⟨kbuf0, kbuf1, kcomb, kcfgtmp⟩, klines, kchips⟩ := completes_of_run
    (m := andThen (opReadPort p) fun l => ret (.level l)) rfl (andThen_ok hrun) hlog hworld
  refine ⟨q.1, q.2, a.1, a.2, t, hcompletes, kbuf0.trans hbuf0, kbuf1.trans hbuf1, kcomb.trans hcomb,
    kcfgtmp.trans hcfgtmp, klines.trans hlines, fun hrules => ?_⟩
  rw [kchips hrules]
  exact ⟨hregs, hlat, hpend⟩

/-- Settles O24: the field update of the instruction. -/
theorem cfgFieldIsReadModifyWritten : Obligations.CfgFieldIsReadModifyWritten := by
  intro i bits p s hfield hq
  obtain ⟨hlo, hhi, hexec⟩ := oneField_exec hfield
  obtain ⟨q, a, r, v, u, hv, hrun, ⟨hlog, hlines, hcomb, hworld⟩, hcfgtmp, hbuf0, hbuf1, hchips⟩ :=
    opCfgBits_sends (n := 0) (s := s.begin i) hlo hhi bits hq
  rw [regReadTrace, (readRequest_of_port hlo hhi).2] at hlog
  obtain ⟨t, hcompletes, ⟨kbuf0, kbuf1, kcomb, kcfgtmp⟩, klines, kchips⟩ :=
    completes_of_run (hexec s) (andThen_ok hrun) hlog hworld
  refine ⟨q.1, q.2, a.1, a.2, r.1, r.2, v, t, hv, hcompletes, kcfgtmp.trans hcfgtmp, kbuf0.trans hbuf0,
    kbuf1.trans hbuf1, kcomb.trans hcomb, klines.trans hlines, fun hrules hwf => ?_⟩
  obtain ⟨-, hlat, hpend, hstored, hmem, hun⟩ := hchips hwf
  simp only [SameMemExcept, kchips hrules]
  exact ⟨hlat, hpend, fun b hb => ⟨hstored b hb, hmem b hb⟩, hun⟩

/-- The registers of a port, of its level and of its field, are two (R28, R29). -/
theorem regAddr_portReg_ne_cfgReg (b : Bank) {p : Byte} (hlo : 4 ≤ p.toNat) (hhi : p.toNat ≤ 31) :
    regAddr b (regOf (portReg p)) ≠ regAddr b (regOf (cfgReg p)) := by
  intro h
  have hport := isPortReg_portReg hlo hhi
  rw [(regAddr_inj h).2, (cfgReg_isWrite hhi).2.2] at hport
  cases hport

/-- Settles O25: the write of the level, then the field update. -/
theorem cfgOutputWritesLevelThenMode : Obligations.CfgOutputWritesLevelThenMode := by
  intro l p s hl hlo hhi hq
  obtain ⟨w, x, hwrite, hqx, hsent, hlevel⟩ :=
    opWritePort_sends (n := 9) (s := s.begin (.peCfgOutput l p)) hlo hhi hl hq
  obtain ⟨q, a, r, v, u, hv, hfield, hsent', hcfgtmp, hbuf0, hbuf1, hmode⟩ :=
    opCfgBits_sends (n := 0) hlo hhi fieldOutput hqx
  have haddr : x.lines.address = s.lines.address := hsent.address
  obtain ⟨hlog, hlines, hcomb, hworld⟩ := hsent.trans hsent'
  rw [regReadTrace, (readRequest_of_port hlo hhi).2] at hlog
  have hrun : opCfgOutput l p (s.begin (.peCfgOutput l p)) = (.ok (), u) := by
    rw [opCfgOutput, andThen_ok hwrite, hfield]
  obtain ⟨t, hcompletes, ⟨kbuf0, kbuf1, kcomb, kcfgtmp⟩, klines, kchips⟩ :=
    completes_of_run (m := asUnit (opCfgOutput l p)) rfl (andThen_ok hrun) hlog hworld
  rw [hsent.world.cfg] at hv
  refine ⟨w.1, w.2, q.1, q.2, a.1, a.2, r.1, r.2, v, t, hv, hcompletes, kcfgtmp.trans hcfgtmp, kbuf0.trans hbuf0,
    kbuf1.trans hbuf1, kcomb.trans hcomb, klines.trans hlines, fun hrules hwf => ?_⟩
  obtain ⟨hwfx, hlat, hpend, hstored, hmem, hun⟩ := hlevel hwf
  obtain ⟨-, hlat', hpend', hstored', hmem', hun'⟩ := hmode hwfx
  simp only [Addresses, SameMemExcept, haddr] at hpend' hstored' hmem' hun'
  rw [kchips hrules]
  refine ⟨hlat'.trans hlat, fun b hb => (hpend' b hb).trans (hpend b hb), fun b hb => ⟨?level, hstored' b hb,
    fun y hport hcfg => (hmem' b hb y hcfg).trans (hmem b hb y hport)⟩, fun hb => (hun' hb).trans (hun hb)⟩
  case level =>
    rw [hmem' b hb _ (regAddr_portReg_ne_cfgReg b hlo hhi)]
    exact hstored b hb

/-! ### A field update on the reference responder (R28, R120, R121) -/

/-- The field of a port, in the configuration register of the port (R28, R73). -/
theorem portField_eq (c : Chips) (b : Bank) (p : Byte) :
    c.portField b p.toNat = cfgField (c.reg b (regOf (cfgReg p))) (cfgOffset p) := by
  have hreg : BitVec.ofNat 7 (Config.peCfgBase.toNat + p.toNat / 4) = regOf (cfgReg p) := by
    refine BitVec.eq_of_toNat_eq ?_
    simp only [regOf, cfgReg, Config.peCfgBase, BitVec.toNat_ofNat, BitVec.toNat_setWidth, BitVec.toNat_add,
      toNat_cfgIndex]
    omega
  rw [Chips.portField, hreg, cfgOffset_eq]

/-- A field update sets the field of its port and no other port's: the two ports' fields lie in different bytes, or in
different places of one byte. -/
theorem portField_setField {c d : Chips} {b : Bank} {bits : BitVec 2} {p : Byte}
    (h : d.reg b = setField bits p (c.reg b)) :
    d.portField b p.toNat = bits ∧ ∀ k, k ≤ 31 → k ≠ p.toNat → d.portField b k = c.portField b k := by
  have hoff : cfgOffset p + 2 ≤ 8 := by
    rw [cfgOffset_eq]
    omega
  refine ⟨?_, fun k hk hne => ?_⟩
  · rw [portField_eq d b p, h, setField, Function.update_self, cfgField_updateField_same _ _ hoff]
  · obtain ⟨q, rfl⟩ : ∃ q : Byte, q.toNat = k := ⟨BitVec.ofNat 8 k, by rw [BitVec.toNat_ofNat]; omega⟩
    rw [portField_eq d b q, portField_eq c b q, h]
    by_cases hreg : regOf (cfgReg q) = regOf (cfgReg p)
    · have hindex : q.toNat / 4 = p.toNat / 4 := by
        have hnat := congrArg BitVec.toNat hreg
        simp only [regOf, cfgReg, Config.peCfgBase, BitVec.toNat_setWidth, BitVec.toNat_add, toNat_cfgIndex,
          BitVec.reduceToNat] at hnat
        omega
      rw [hreg, setField, Function.update_self]
      refine cfgField_updateField_other _ _ ?_ ?_ <;> simp only [cfgOffset_eq] <;> omega
    · rw [setField_other hreg]

/-- Settles O26: the addressed chip's registers are transformed by the field update, and no other byte changes. -/
theorem fieldUpdateKeepsTheOtherPorts : Obligations.FieldUpdateKeepsTheOtherPorts := by
  intro i bits p s b hfield he hwf hb
  obtain ⟨_, _, _, _, _, _, _, t, -, ⟨hexec, hrsp, -⟩, -, -, -, -, -, hcontents⟩ :=
    cfgFieldIsReadModifyWritten i bits p s hfield (.inl he)
  obtain ⟨-, -, hstored, -⟩ := hcontents (.inl he) hwf
  obtain ⟨hlo, hhi, hrun⟩ := oneField_exec hfield
  obtain ⟨u, hu, -, hbank⟩ := opCfgBits_transforms b bits hlo hhi (s.begin i) he hwf hb
  have hnext : exec i s = .next _ := (hrun s).trans (runCommand_eq (andThen_ok hu))
  have ht : t.chips = u.chips := by
    rw [← Host.Outcome.next.inj (hnext.symm.trans hexec), settleChips_still (.inl (.inl he)), complete_chips]
  obtain ⟨hset, hkept⟩ := portField_setField (c := s.chips) (d := t.chips) (b := b) (by rw [ht]; exact hbank.bank)
  exact ⟨t, hexec, hrsp, hset, fun k _ hk hne => hkept k hk hne, (hstored b hb).2⟩

/-! ### The instructions that may write, and the actions they take (R72, R77, R121) -/

/-- A set of actions that the writing instructions stay in: every line may be driven and every frame of the table sent,
and of the registers those of configuration fields may be lost. -/
structure Actions.ServesWrites (A : Actions) : Prop where
  drives : ∀ x, A.drives x
  sends : ∀ {t0 t1}, TableFrame t0 t1 → A.sends t0 t1
  loses : ∀ {q : BitVec 3}, frameCfgOk q = true → A.loses (Config.peCfgBase + q.setWidth 8)

namespace Within

section ServesWrites

variable {A : Actions} (hA : A.ServesWrites)
include hA

theorem writes_opWritePort (l : Level) (p : Byte) : Within A (Machine.opWritePort l p) := by
  refine afterRequire rfl fun h => ?_
  cases l with
  | low => exact .raise rfl
  | high => exact regWrite (hA.drives .cs) (hA.sends (tableFrame_writePort h true))
  | hiz => exact regWrite (hA.drives .cs) (hA.sends (tableFrame_writePort h false))

theorem writes_opCfgBits (bits : BitVec 2) (p : Byte) : Within A (Machine.opCfgBits bits p) := by
  refine afterRequire rfl fun h => ?_
  have hloses : A.loses (cfgReg p) := by
    rw [cfgReg, ← setWidth_cfgIndex (port_bounds h).2]
    exact hA.loses (frameCfgOk_port h)
  exact (regRead (hA.drives .cs) (hA.sends (tableFrame_readCfg h)) (hA.sends tableFrame_nop)).andThen fun _ =>
    (writeCfgtmp _).andThen fun _ => (writeCfgtmp _).andThen fun _ =>
      cfgWrite (hA.drives .cs) (hA.sends (tableFrame_writeCfg h _)) hloses

theorem writes_opCfgOutput (l : Level) (p : Byte) : Within A (Machine.opCfgOutput l p) :=
  (writes_opWritePort hA l p).andThen fun _ => writes_opCfgBits hA _ p

theorem writes_opWakeup (u : Bool) : Within A (Machine.opWakeup u) :=
  regWrite (hA.drives .cs) (hA.sends (tableFrame_gcfgWrite u))

theorem writes_opInit : Within A Machine.opInit :=
  forEach fun _ _ => (opSelect hA.drives _ _).andThen fun _ =>
    (forEach fun p _ => writes_opCfgOutput hA .hiz p).andThen fun _ =>
    (forEach fun p _ => writes_opCfgBits hA (fieldInput true) p).andThen fun _ =>
    (forEach fun p _ => writes_opCfgBits hA (fieldInput false) p).andThen fun _ =>
    (forEach fun p _ => writes_opCfgBits hA (fieldInput true) p).andThen fun _ =>
    readCfg.andThen fun cfg => writes_opWakeup hA cfg.initEnableIrq

theorem writes_opSetOutput (l : Level) (a : Byte) : Within A (Machine.opSetOutput l a) :=
  (locate a rfl).andThen fun _ => (opSelect hA.drives _ _).andThen fun _ => writes_opWritePort hA l _

end ServesWrites

end Within

/-- A well-formed instruction stores nothing, or its operation stays in every set that serves the writes. -/
theorem storesNothing_or_within {A : Actions} (hA : A.ServesWrites) {i : Instr} (hwf : i.wf = true) :
    StoresNothing i ∨ ∃ m : Op Value, Within A m ∧ ∀ s, exec i s = runCommand i m s := by
  have hrequest := hA.sends tableFrame_direq16
  have hselect (d : Direction) (b : Bank) : Within A (asUnit (opSelect d b)) := (Within.opSelect hA.drives d b).asUnit
  have hframe {t0 t1 : Byte} (h : TableFrame t0 t1) : Within A (asUnit (frame t0 t1)) :=
    (Within.frame (hA.drives .cs) (hA.sends h)).asUnit
  cases i with
  | getOutputState a => exact .inl (.outputState a)
  | getOutputSupply b => exact .inl (.outputSupply b)
  | getOutputThermal b => exact .inl (.outputThermal b)
  | getInput a => exact .inl (.input a)
  | getInputSupply b => exact .inl (.inputSupply b)
  | getInputThermal b => exact .inl (.inputThermal b)
  | peReadPort p => exact .inl (.readPort p)
  | fPortReadReq p => exact .inl (.portReadReq p)
  | fCfgReadReq q => exact .inl (.cfgReadReq q)
  | fNop => exact .inl .nop
  | init => exact .inr ⟨_, (Within.writes_opInit hA).asUnit, fun _ => rfl⟩
  | setOutput l a => exact .inr ⟨_, (Within.writes_opSetOutput hA l a).asUnit, fun _ => rfl⟩
  | peWritePort l p => exact .inr ⟨_, (Within.writes_opWritePort hA l p).asUnit, fun _ => rfl⟩
  | peCfgOutput l p => exact .inr ⟨_, (Within.writes_opCfgOutput hA l p).asUnit, fun _ => rfl⟩
  | peCfgInput u p => exact .inr ⟨_, (Within.writes_opCfgBits hA (fieldInput u) p).asUnit, fun _ => rfl⟩
  | peCfgBits b p => exact .inr ⟨_, (Within.writes_opCfgBits hA b p).asUnit, fun _ => rfl⟩
  | peWakeup u => exact .inr ⟨_, (Within.writes_opWakeup hA u).asUnit, fun _ => rfl⟩
  | diReadBit n => exact .inr ⟨_, (Within.readBit hA.drives hrequest n).map Value.bit, fun _ => rfl⟩
  | fPortWrite p d => exact .inr ⟨_, hframe (tableFrame_portWrite hwf d), fun _ => rfl⟩
  | fGcfgWrite u => exact .inr ⟨_, hframe (tableFrame_gcfgWrite u), fun _ => rfl⟩
  | fCfgWrite q c =>
    exact .inr ⟨_, (Within.cfgWrite (hA.drives .cs) (hA.sends (tableFrame_cfgWrite hwf c)) (hA.loses hwf)).asUnit,
      fun _ => rfl⟩
  | direq16 =>
    exact .inr ⟨_, (Within.readFrame (hA.drives .load) (hA.drives .cs) hrequest).asUnit, fun _ => rfl⟩
  | select d b => exact .inr ⟨_, hselect d b, fun _ => rfl⟩
  | selOut1 | selOut2 | selOut3 | selOut4 | selOut5 | selOut6 => exact .inr ⟨_, hselect .dout _, fun _ => rfl⟩
  | selIn1 | selIn2 | selIn3 | selIn4 | selIn5 | selIn6 => exact .inr ⟨_, hselect .din _, fun _ => rfl⟩

/-! ### No instruction puts an awake chip back to the low-power state (R27, R124, R220) -/

/-- A write of `v` to register `r` that clears no wake bit: to the global configuration register it sets bit 0 (R27). -/
def WakeSafe (r : RegAddr) (v : Byte) : Prop := r = regOf Config.peGcfgReg → v.getLsbD 0 = true

/-- The actions that put no chip to sleep: every frame that writes is wake-safe, and the global configuration register
is not lost. -/
def Actions.wakeSafe : Actions :=
  ⟨fun _ => True, fun t0 t1 => t0.getLsbD 7 = false → WakeSafe (regOf t0) t1,
    fun r => regOf r ≠ regOf Config.peGcfgReg⟩

/-- The byte of a write to the global configuration register is the register's (R71). -/
theorem eq_gcfgReg_of_write : ∀ {t0 : Byte}, t0.getLsbD 7 = false → regOf t0 = regOf Config.peGcfgReg →
    t0 = Config.peGcfgReg := by
  decide

/-- The table has two frames that write the global configuration register, and both set its bit 0 (R72, R124). -/
theorem wakeBit_of_gcfgFrame : ∀ {t1 : Byte}, (decodeFrame (Config.peGcfgReg ++ t1)).isOk = true →
    t1.getLsbD 0 = true := by
  decide

theorem TableFrame.wakeSafe {t0 t1 : Byte} (h : TableFrame t0 t1) (hw : t0.getLsbD 7 = false) :
    WakeSafe (regOf t0) t1 := by
  intro hreg
  obtain ⟨j, hj⟩ := h
  rw [eq_gcfgReg_of_write hw hreg] at hj
  exact wakeBit_of_gcfgFrame (by rw [hj]; rfl)

theorem wakeSafe_servesWrites : Actions.wakeSafe.ServesWrites where
  drives _ := trivial
  sends h hw := h.wakeSafe hw
  loses {q} _ := by
    change regOf (Config.peCfgBase + q.setWidth 8) ≠ regOf Config.peGcfgReg
    revert q
    decide

/-- The chip of bank `b` is awake, in canonical memory. -/
def AwakeIn (b : Bank) (c : Chips) : Prop := memWf c.regs = true ∧ c.awake b = true

theorem AwakeIn.of_regs {b : Bank} {c d : Chips} (h : AwakeIn b c) (hregs : d.regs = c.regs) : AwakeIn b d := by
  simpa only [AwakeIn, Chips.awake, Chips.reg, hregs] using h

/-- A wake-safe write to any chip keeps an awake chip awake. -/
theorem AwakeIn.setReg {b : Bank} {c : Chips} (h : AwakeIn b c) (b' : Bank) {r : RegAddr} {v : Byte}
    (hv : WakeSafe r v) : AwakeIn b (c.setReg b' r v) := by
  obtain ⟨hwf, hawake⟩ := h
  refine ⟨memWf_setReg b' r v hwf, ?_⟩
  rw [Chips.awake] at hawake ⊢
  by_cases hreg : b = b' ∧ regOf Config.peGcfgReg = r
  · obtain ⟨rfl, rfl⟩ := hreg
    rw [reg_setReg_same b _ v hwf]
    exact hv rfl
  · rw [reg_setReg_other c b' b r _ v hreg, hawake]

/-- An exchange that is wake-safe, if it is a write, keeps an awake chip awake. -/
theorem AwakeIn.chipsTake {b : Bank} {t0 t1 : Byte} {s : State} (h : AwakeIn b s.chips)
    (hv : t0.getLsbD 7 = false → WakeSafe (regOf t0) t1) : AwakeIn b (chipsTake t0 t1 s).chips := by
  by_cases hread : t0.getLsbD 7 = true ∨ t0 = 0x00
  · exact h.of_regs (chipsTake_regs t1 s hread)
  obtain ⟨hw, hz⟩ := not_or.1 hread
  rw [Bool.not_eq_true] at hw
  by_cases hun : ∀ b', ¬Addresses s .dout b'
  · rwa [chipsTake_unaddressed t0 t1 hun]
  · obtain ⟨b', hb'⟩ := not_forall_not.1 hun
    rw [chipsTake_write t1 hb' hw hz]
    exact h.setReg b' (hv hw)

theorem AwakeIn.loseRegister {b : Bank} {r : Byte} {s : State} (h : AwakeIn b s.chips)
    (hr : regOf r ≠ regOf Config.peGcfgReg) : AwakeIn b (loseRegister r s).chips := by
  unfold Machine.loseRegister
  split
  · exact h.setReg _ fun heq => absurd heq hr
  · exact h
  · exact h

/-- The wake-safe actions keep an awake chip awake, whatever the environment does. -/
theorem keptWithin_wakeSafe_awakeIn (b : Bank) : KeptWithin .wakeSafe fun s => AwakeIn b s.chips where
  drive {x} _ v s h := by
    have hkeep := drive_keeps_expanders x v s.chips s ⟨rfl, rfl⟩
    rcases hd : drive x v s with ⟨_ | e, t⟩ <;> rw [hd] at hkeep <;> exact h.of_regs hkeep.1
  settle _ h := h
  xfer {t0 t1} hsend s h := by
    have hchips (e : Event) : AwakeIn b ((xferChoice t0 t1 s).2.emit e).chips := by
      rwa [emit_chips, (xferChoice_same t0 t1 s).2]
    rcases xfer_cases t0 t1 s with ⟨r0, r1, t, ht, -, rfl, -⟩ | ⟨d0, d1, t, ht, -, rfl, -⟩ <;> rw [ht]
    · exact (hchips _).chipsTake hsend
    · exact (hchips _).of_regs (chipsMiss_keeps t0 _).1
  writeComb _ _ h := h
  writeCfgtmp _ _ h := h
  loseRegister hr _ h := h.loseRegister hr

/-- Settles O58: an instruction that stores nothing leaves the memory as it is, and any other takes only wake-safe
actions. -/
theorem awakeChipsStayAwake : Obligations.AwakeChipsStayAwake := by
  intro i s t b hwf hrules hmem hexec hawake
  have hs : AwakeIn b s.chips := ⟨hmem, hawake⟩
  have ht : AwakeIn b t.chips := by
    rcases storesNothing_or_within wakeSafe_servesWrites hwf with hstores | ⟨m, hm, hrun⟩
    · exact hs.of_regs (readsStoreNothing i s t hstores hrules hexec).1
    · exact exec_keeps_chips (hrun s) ((keptWithin_wakeSafe_awakeIn b).keeps hm) hrules hs hexec
  exact ht.2

end Sys2Proof.Machine
end

section
/-! SUPPORT. The statements of the family serial input about words: the combined word (O10) and which words are accepted
(O11). -/

namespace Sys2Proof.Machine

open BitVec (extractLsb'_append_eq_of_le extractLsb'_append_eq_of_add_le extractLsb'_eq_self)

/-! ### The combined word (R9, R142) -/

/-- `rev8`, bit by bit (R9). -/
theorem getLsbD_rev8 (b : Byte) {j : Nat} (hj : j < 8) : (rev8 b).getLsbD j = b.getLsbD (7 - j) := by
  simp only [rev8, BitVec.getLsbD_append]
  interval_cases j <;> simp

/-- The two bytes of the combined word. -/
theorem combined_bytes (r0 r1 : Byte) :
    (combined r0 r1).extractLsb' 0 8 = r0 ∧ (combined r0 r1).extractLsb' 8 8 = rev8 r1 := by
  constructor
  · rw [combined, extractLsb'_append_eq_of_add_le (by decide), extractLsb'_eq_self]
  · rw [combined, extractLsb'_append_eq_of_le (by decide), extractLsb'_eq_self]

/-- Settles O10: the bits of the high byte are those of the reversed second byte. -/
theorem combinedWordIsReversedSecondByteOverFirst : Obligations.CombinedWordIsReversedSecondByteOverFirst := by
  refine ⟨fun r0 r1 => ?_, rfl, rfl⟩
  obtain ⟨hlow, hhigh⟩ := combined_bytes r0 r1
  refine ⟨hlow, hhigh, fun j hj => ?_⟩
  calc (combined r0 r1).getLsbD (8 + j)
      = ((combined r0 r1).extractLsb' 8 8).getLsbD j := by simp [hj]
    _ = r1.getLsbD (7 - j) := by rw [hhigh, getLsbD_rev8 r1 hj]

/-! ### The bits a word has set (R9) -/

/-- The count looks at no bit from `n` on. -/
theorem popcountBelow_congr {v w : Word} {n : Nat} (h : ∀ k, k < n → v.getLsbD k = w.getLsbD k) :
    popcountBelow v n = popcountBelow w n := by
  induction n with
  | zero => rfl
  | succ n ih => rw [popcountBelow, popcountBelow, ih fun k hk => h k (by omega), h n (by omega)]

/-- With no bit set from `n` on, the count ends there. -/
theorem popcountBelow_of_clear {v : Word} {n m : Nat} (hle : n ≤ m) (h : ∀ k, n ≤ k → v.getLsbD k = false) :
    popcountBelow v m = popcountBelow v n := by
  induction m, hle using Nat.le_induction with
  | base => rfl
  | succ m hm ih => rw [popcountBelow, ih, h m hm, Bool.toNat_false, Nat.add_zero]

/-- Under a mask of the bits below `n`, `popcount` counts those bits. -/
theorem popcount_and_mask (v : Word) {mask : Word} {n : Nat} (hn : n ≤ 16)
    (hmask : ∀ k, k < 16 → mask.getLsbD k = decide (k < n)) : popcount (v &&& mask) = popcountBelow v n := by
  rw [popcount, popcountBelow_of_clear hn fun k hk => ?clear]
  · refine popcountBelow_congr fun k hk => ?_
    rw [BitVec.getLsbD_and, hmask k (by omega), decide_eq_true hk, Bool.and_true]
  case clear =>
    by_cases hk16 : k < 16
    · rw [BitVec.getLsbD_and, hmask k hk16, decide_eq_false (by omega), Bool.and_false]
    · exact BitVec.getLsbD_of_ge _ k (by omega)

/-- The bits of a word with bit `k` flipped. -/
theorem getLsbD_flip (v : Word) {k : Nat} (hk : k < 16) (j : Nat) :
    (v ^^^ (1 <<< k)).getLsbD j = (v.getLsbD j ^^ decide (j = k)) := by
  have hbit : ((1 <<< k : Nat) : Word) = BitVec.twoPow 16 k := by
    interval_cases k <;> rfl
  rw [hbit, BitVec.getLsbD_xor, BitVec.getLsbD_twoPow]
  simp [hk, eq_comm]

/-- Flipping a bit that is counted changes the parity of the count. -/
theorem popcountBelow_flip (v : Word) {k n : Nat} (hk : k < n) (hn : n ≤ 16) :
    popcountBelow (v ^^^ (1 <<< k)) n % 2 = (popcountBelow v n + 1) % 2 := by
  induction n, hk using Nat.le_induction with
  | base =>
    have hbelow : popcountBelow (v ^^^ (1 <<< k)) k = popcountBelow v k :=
      popcountBelow_congr fun j hj => by rw [getLsbD_flip v (by omega), decide_eq_false (by omega), Bool.xor_false]
    rw [popcountBelow, popcountBelow, hbelow, getLsbD_flip v (by omega), decide_eq_true rfl]
    cases v.getLsbD k <;> simp [Nat.add_assoc]
  | succ n hkn ih =>
    have := ih (by omega)
    rw [popcountBelow, popcountBelow, getLsbD_flip v (by omega), decide_eq_false (by omega), Bool.xor_false]
    omega

/-! ### The two checks of a serial-input word (R143, R144) -/

/-- The parity of bits 10..0 that a mode accepts: odd or even (R144). -/
def acceptedParity : ParityMode → Nat
  | .asImplemented => 1
  | .agreement => 0

/-- A bit differs from the parity of a count, or agrees with it, as the count with the bit is odd or even. -/
theorem parity_with_bit (n : Nat) (b : Bool) :
    ((n % 2 == 1) != b) = ((n + b.toNat) % 2 == 1) ∧ ((n % 2 == 1) == b) = ((n + b.toNat) % 2 == 0) := by
  rcases Nat.mod_two_eq_zero_or_one n with h | h <;> cases b <;> simp [Nat.add_mod, h]

/-- The parity check is one of bits 10..0: the ten data bits and the parity bit (R144). -/
theorem parityOk_iff (cfg : Params) (c : Word) :
    parityOk cfg c = true ↔ popcountBelow c 11 % 2 = acceptedParity cfg.diParityMode := by
  have hdata : popcount (c &&& Config.diDataMask) = popcountBelow c 10 := popcount_and_mask c (by decide) (by decide)
  obtain ⟨hodd, heven⟩ := parity_with_bit (popcountBelow c 10) (c.getLsbD 10)
  rw [parityOk, dataParity, hdata, Config.diParityBit]
  cases cfg.diParityMode with
  | asImplemented => exact (Bool.eq_iff_iff.1 hodd).trans beq_iff_eq
  | agreement => exact (Bool.eq_iff_iff.1 heven).trans beq_iff_eq

/-- A word that passes the header check is accepted if it passes the parity check. -/
theorem wordAccepted_of_headerOk {cfg : Params} {c : Word} (h : headerOk cfg c = true) :
    wordAccepted cfg c = parityOk cfg c := by rw [wordAccepted, h, Bool.true_and]

/-- The header check sees no change in bits 10..0. -/
theorem headerOk_flip (cfg : Params) (c : Word) {k : Nat} (hk : k < 11) :
    headerOk cfg (c ^^^ (1 <<< k)) = headerOk cfg c := by
  have hsame : (c ^^^ (1 <<< k)) &&& Config.diHeaderMask = c &&& Config.diHeaderMask := by
    refine BitVec.eq_of_getLsbD_eq fun j hj => ?_
    rw [BitVec.getLsbD_and, BitVec.getLsbD_and, getLsbD_flip c (by omega)]
    by_cases hjk : j = k
    · have hmask : Config.diHeaderMask.getLsbD j = false := by
        rw [hjk]
        interval_cases k <;> rfl
      rw [hmask, Bool.and_false, Bool.and_false]
    · rw [decide_eq_false hjk, Bool.xor_false]
  rw [headerOk, headerOk, hsame]

/-- One of bits 10..0 flipped turns the parity check (R145). -/
theorem parityOk_flip (cfg : Params) (c : Word) {k : Nat} (hk : k < 11) :
    parityOk cfg (c ^^^ (1 <<< k)) = !parityOk cfg c := by
  have hflip := popcountBelow_flip c hk (by decide)
  rw [Bool.eq_iff_iff, Bool.not_eq_true', ← Bool.not_eq_true, parityOk_iff, parityOk_iff]
  cases cfg.diParityMode <;> simp only [acceptedParity] <;> omega

/-- The two modes accept complementary halves (R144). -/
theorem parityOk_modes (cfg : Params) (c : Word) :
    parityOk { cfg with diParityMode := .asImplemented } c =
      !parityOk { cfg with diParityMode := .agreement } c := by
  rw [Bool.eq_iff_iff, Bool.not_eq_true', ← Bool.not_eq_true, parityOk_iff, parityOk_iff]
  simp only [acceptedParity]
  omega

/-- The header mask leaves the five high bits in place. -/
theorem toNat_and_headerMask (c : Word) : (c &&& Config.diHeaderMask).toNat = c.toNat / 2048 * 2048 := by
  have hmask : c &&& Config.diHeaderMask = (c >>> 11) <<< 11 := by
    refine BitVec.eq_of_getLsbD_eq fun k hk => ?_
    interval_cases k <;> simp [Config.diHeaderMask]
  have := c.isLt
  rw [hmask, BitVec.toNat_shiftLeft, BitVec.toNat_ushiftRight, Nat.shiftLeft_eq, Nat.shiftRight_eq_div_pow]
  omega

/-- The words with the header 0x5000 (R143). -/
theorem headerOk_iff {cfg : Params} (c : Word) (hh : cfg.diHeader = 0x5000) :
    headerOk cfg c = true ↔ 0x5000 ≤ c.toNat ∧ c.toNat ≤ 0x57FF := by
  rw [headerOk, hh, beq_iff_eq, ← BitVec.toNat_inj, toNat_and_headerMask]
  simp only [BitVec.reduceToNat]
  omega

/-- Settles O11: the parity check counts bits 10..0, none of which the header check looks at. -/
theorem serialWordAcceptance : Obligations.SerialWordAcceptance := by
  refine ⟨fun cfg c hh => ⟨headerOk_iff c hh, fun hc hm => ?odd, fun hc hm => ?even, fun hc => ?parityBit,
    fun k hk hc => ?flip, fun hc => ?modes⟩, by decide, by decide, by decide, by decide⟩
  case odd | even =>
    rw [wordAccepted_of_headerOk hc, parityOk_iff, hm, popcount_and_mask c (n := 11) (by decide) (by decide)]
    rfl
  case parityBit =>
    rw [wordAccepted_of_headerOk hc, wordAccepted_of_headerOk ((headerOk_flip cfg c (by decide)).trans hc),
      parityOk_flip cfg c (by decide)]
  case flip =>
    obtain ⟨-, hparity⟩ := Bool.and_eq_true_iff.1 hc
    rw [wordAccepted, parityOk_flip cfg c hk, hparity, Bool.not_true, Bool.and_false]
  case modes =>
    rw [wordAccepted_of_headerOk (cfg := { cfg with diParityMode := .asImplemented }) hc,
      wordAccepted_of_headerOk (cfg := { cfg with diParityMode := .agreement }) hc, parityOk_modes]

end Sys2Proof.Machine
end

section
/-! SUPPORT. The statements of the family serial input about commands: a frame read that nothing disturbs (O29), and
`DiParity` only after a whole frame read (O42). The errors of every instruction's checks are listed on the way. -/

namespace Sys2Proof.Machine

/-! ### A command that runs, whatever it answers (R24, R209, R244) -/

/-- A command responds with its operation's result; settling the chips touches no part of the block, and no chip in a
command the rules describe. -/
theorem leaves_of_run {i : Instr} {m : Op Value} {s u : State} {r : Res Value} (hexec : exec i s = runCommand i m s)
    (hrun : m (s.begin i) = (r, u)) :
    ∃ t, exec i s = .next t ∧ t.rsp = some (rspWord r) ∧ t.log = u.log ∧ SameWorking u t ∧ t.lines = u.lines ∧
      (ChipsFollowRules s → t.chips = u.chips) := by
  obtain ⟨hsettled, -⟩ := settleChips_same s u
  refine ⟨_, hexec.trans (runCommand_eq hrun), rfl, by simp [hsettled], by simp [SameWorking, hsettled],
    by simp [hsettled], fun hrules => ?_⟩
  rw [settleChips_still (.inl hrules), complete_chips]

/-! ### The frame read, undisturbed (R141 to R144) -/

/-- What a frame read makes of the word it has read (R143 to R145). -/
def validated (cfg : Params) (c : Word) : Res Word := if wordAccepted cfg c then .ok c else .err .diParity

theorem validated_of_accepted {cfg : Params} {c : Word} (h : wordAccepted cfg c = true) : validated cfg c = .ok c :=
  if_pos h

theorem validated_of_rejected {cfg : Params} {c : Word} (h : wordAccepted cfg c = false) :
    validated cfg c = .err .diParity := if_neg (by simp [h])

theorem rejected_of_validated {cfg : Params} {c : Word} {e : ErrKind} (h : validated cfg c = .err e) :
    e = .diParity ∧ wordAccepted cfg c = false := by
  cases hword : wordAccepted cfg c with
  | true =>
    rw [validated_of_accepted hword] at h
    cases h
  | false =>
    rw [validated_of_rejected hword] at h
    cases h
    exact ⟨rfl, rfl⟩

/-- After the pulse and the frame a frame read only assembles the word and checks it. -/
theorem readFrame_of_frame {s t u : State} {r0 r1 : Byte} (hpulse : loadPulse s = (.ok (), t))
    (hframe : frame Config.diRequest0 Config.diRequest1 t = (.ok (r0, r1), u)) :
    readFrame s = (validated u.cfg (combined r0 r1), u.setComb (combined r0 r1)) := by
  rw [readFrame, andThen_ok hpulse, andThen_ok hframe, andThen_writeComb, andThen_readCfg, setComb_cfg, validated,
    wordAccepted]
  cases headerOk u.cfg (combined r0 r1) with
  | false => rfl
  | true => cases parityOk u.cfg (combined r0 r1) <;> rfl

/-- A frame that is no read request sets no pending value (R30, R62). -/
theorem chipsTake_pend_of_write {t0 : Byte} (t1 : Byte) (s : State) (hw : t0.getLsbD 7 = false) (hz : t0 ≠ 0x00) :
    (chipsTake t0 t1 s).chips.pend = s.chips.pend := by
  by_cases hun : ∀ b, ¬Addresses s .dout b
  · rw [chipsTake_unaddressed t0 t1 hun]
  · obtain ⟨b, hb⟩ := not_forall_not.1 hun
    rw [chipsTake_write t1 hb hw hz]
    rfl

/-- A quiet frame read: nine events, the received bytes in `BUF` and assembled in `COMB`, both lines high again, and the
result of the checks. Only the request itself can have reached a register of a port expander (R247). -/
theorem readFrame_quiet {s : State} (h : Quiet 5 s) :
    ∃ r0 r1 u, readFrame s = (validated s.cfg (combined r0 r1), u) ∧
      u.log = (readFrameTrace r0 r1).reverse ++ s.log ∧ u.buf0 = r0 ∧ u.buf1 = r1 ∧ u.comb = combined r0 r1 ∧
      u.cfgtmp = s.cfgtmp ∧ u.lines = { s.lines with cs := true, load := true } ∧ u.chips.pend = s.chips.pend ∧
      ((∀ b, ¬Addresses s .dout b) → SameMem s u) ∧
      ∀ b, Addresses s .dout b → SameMemExcept (regAddr b 0x50) s u := by
  obtain ⟨t, hpulse, hq, hlog, hlines, -, -, -, hcfgtmp, ⟨⟨hcfg, -⟩, -⟩, hchips, -⟩ := loadPulse_quiet (n := 3) h
  obtain ⟨r0, r1, u, hframe, -, klog, klines, kbuf0, kbuf1, -, kcfgtmp, ⟨⟨kcfg, -⟩, -⟩, kchips, -⟩ :=
    frame_quiet (n := 0) Config.diRequest0 Config.diRequest1 hq
  have haddr : t.lines.address = s.lines.address := by rw [hlines]; rfl
  have hregs : t.chips.regs = s.chips.regs := by rw [hchips]; rfl
  have hrun := readFrame_of_frame hpulse hframe
  rw [kcfg, hcfg] at hrun
  refine ⟨r0, r1, _, hrun, ?log, kbuf0, kbuf1, rfl,
    kcfgtmp.trans hcfgtmp, ?lines, ?pend, fun hun x => ?unaddressed, fun b hb x hx => ?addressed⟩
  case log => rw [setComb_log, klog, hlog, readFrameTrace, List.reverse_append, List.append_assoc]
  case lines => rw [setComb_lines, klines, hlines]
  case pend =>
    rw [setComb_chips, kchips, chipsTake_pend_of_write _ t (by decide) (by decide), hchips]
    rfl
  case unaddressed =>
    rw [setComb_chips, kchips, chipsTake_unaddressed _ _ (by simpa only [Addresses, haddr] using hun), hregs]
  case addressed =>
    rw [setComb_chips, kchips, chipsTake_mem Config.diRequest0 _ (haddr.trans hb) x hx, hregs]

/-! ### The instructions of one frame read (R146; log entry 10) -/

/-- The instructions of one frame read, with the value they answer for an accepted word. -/
abbrev OneFrameRead (i : Instr) (v : Word → Value) : Prop :=
  i = .direq16 ∧ (∀ c, v c = .unit) ∨
    ∃ k : Byte, k.toNat ≤ 9 ∧ i = .diReadBit k ∧ ∀ c, v c = .bit (c.getLsbD k.toNat)

/-- They run the frame read and nothing else. -/
theorem OneFrameRead.exec_eq {i : Instr} {v : Word → Value} (h : OneFrameRead i v) (s : State) :
    exec i s = runCommand i (andThen readFrame fun c => ret (v c)) s := by
  rcases h with ⟨rfl, hv⟩ | ⟨k, hk, rfl, hv⟩
  · simp only [hv]
    rfl
  · simp only [hv]
    rw [exec, execDiReadBit, opReadBit, Config.indexMax, decide_eq_true hk, require_true, andThen_ret, andThen_assoc]
    rfl

/-- Settles O29: the instruction is one frame read, whose checked word is the response. -/
theorem readFrameThenValidates : Obligations.ReadFrameThenValidates := by
  intro i v s hread hq
  obtain ⟨r0, r1, u, hrun, hlog, hbuf0, hbuf1, hcomb, hcfgtmp, hlines, hpend, hun, hmem⟩ :=
    readFrame_quiet (s := s.begin i) hq
  rw [begin_cfg] at hrun
  have hresult : andThen readFrame (fun c => ret (v c)) (s.begin i) =
      (if wordAccepted s.cfg (combined r0 r1) then .ok (v (combined r0 r1)) else .err .diParity, u) := by
    cases hword : wordAccepted s.cfg (combined r0 r1) with
    | true =>
      rw [validated_of_accepted hword] at hrun
      exact andThen_ok hrun
    | false =>
      rw [validated_of_rejected hword] at hrun
      exact andThen_err hrun
  obtain ⟨t, hexec, hrsp, klog, ⟨kbuf0, kbuf1, kcomb, kcfgtmp⟩, klines, kchips⟩ :=
    leaves_of_run (OneFrameRead.exec_eq hread s) hresult
  refine ⟨r0, r1, t, hexec, by simp [State.trace, klog, hlog], kbuf0.trans hbuf0, kbuf1.trans hbuf1,
    kcomb.trans hcomb, kcfgtmp.trans hcfgtmp, klines.trans hlines, fun hacc => ?_, fun hrej => ?_,
    fun hrules => ?_, fun hrules hunaddr => ?_, fun hrules b hb => ?_⟩
  · rw [hrsp, if_pos hacc]
  · rw [hrsp, if_neg (by simp [hrej])]
    rfl
  · rw [kchips hrules, hpend, begin_chips]
  · simpa only [SameMem, kchips hrules, begin_chips] using hun hunaddr
  · simpa only [SameMemExcept, kchips hrules, begin_chips] using hmem b hb

/-- A sequence fails where its first part does, or after it. -/
theorem andThen_eq_err {α β : Type} {m : Op α} {k : α → Op β} {s u : State} {e : ErrKind}
    (h : andThen m k s = (.err e, u)) : m s = (.err e, u) ∨ ∃ a t, m s = (.ok a, t) ∧ k a t = (.err e, u) := by
  rcases andThen_cases m k s with ⟨a, t, hok, hrun⟩ | ⟨e', t, hfail, hrun⟩ <;> rw [hrun] at h
  · exact .inr ⟨a, t, hok, h⟩
  · cases h
    exact .inl hfail

/-! ### The events of a sequence that succeeds, whatever the environment does (R12 to R14) -/

/-- The parameters are `cfg` and the trace, newest event first, is `l`. -/
abbrev HasTrace (cfg : Params) (l : List Event) (s : State) : Prop := s.cfg = cfg ∧ s.log = l

/-- From any trace, `m` with result `a` appends the events `ev a`, or it fails with a `Transport` error. -/
def Appends {α : Type} (m : Op α) (ev : α → List Event) : Prop :=
  ∀ cfg l, Triple (HasTrace cfg l) m (fun a => HasTrace cfg ((ev a).reverse ++ l)) (fun e _ => ∃ c, e = .transport c)

theorem appends_drive (x : Line) (b : Bool) : Appends (drive x b) fun _ => [.pin x b] := by
  rintro _ _ s ⟨rfl, rfl⟩
  rcases drive_cases x b s with ⟨t, ht, hblock, -⟩ | ⟨d, t, ht, -⟩ <;> rw [ht]
  · simp [HasTrace, hblock]
  · exact ⟨_, rfl⟩

theorem appends_settle : Appends settle fun _ => [.delay Config.settleUs] := by
  rintro _ _ s ⟨rfl, rfl⟩
  exact ⟨rfl, rfl⟩

theorem appends_xfer (t0 t1 : Byte) : Appends (xfer t0 t1) fun r => [.xfer t0 t1 r.1 r.2] := by
  rintro _ _ s ⟨rfl, rfl⟩
  rcases xfer_cases t0 t1 s with ⟨r0, r1, t, ht, hblock, -⟩ | ⟨d0, d1, t, ht, -⟩ <;> rw [ht]
  · simp [HasTrace, hblock]
  · exact ⟨_, rfl⟩

theorem appends_frame (t0 t1 : Byte) : Appends (frame t0 t1) fun r => frameTrace t0 t1 r.1 r.2 := fun _ _ =>
  triple_andThen (appends_drive _ _ _ _) fun _ => triple_andThen (appends_settle _ _) fun _ =>
    triple_andThen (appends_xfer _ _ _ _) fun _ => triple_andThen (appends_settle _ _) fun _ =>
      triple_andThen (appends_drive _ _ _ _) fun _ => triple_andThen (appends_settle _ _) fun _ =>
        triple_ret fun _ h => h

theorem appends_loadPulse : Appends loadPulse fun _ => pulseTrace := fun _ _ =>
  triple_andThen (appends_drive _ _ _ _) fun _ => triple_andThen (appends_settle _ _) fun _ => appends_drive _ _ _ _

theorem appends_selectAddress (a : ChipAddr) : Appends (selectAddress a) fun _ => selectTrace a := fun _ _ =>
  triple_andThen (appends_drive _ _ _ _) fun _ => triple_andThen (appends_drive _ _ _ _) fun _ =>
    triple_andThen (appends_drive _ _ _ _) fun _ => triple_andThen (appends_drive _ _ _ _) fun _ => appends_settle _ _

/-- The two ways such a sequence runs. -/
theorem Appends.cases {α : Type} {m : Op α} {ev : α → List Event} (h : Appends m ev) (s : State) :
    (∃ c t, m s = (.err (.transport c), t)) ∨
      ∃ a t, m s = (.ok a, t) ∧ t.cfg = s.cfg ∧ t.log = (ev a).reverse ++ s.log := by
  have hs := h s.cfg s.log s ⟨rfl, rfl⟩
  rcases hm : m s with ⟨a | e, t⟩ <;> rw [hm] at hs
  · exact .inr ⟨a, t, rfl, hs⟩
  · obtain ⟨c, rfl⟩ := hs
    exact .inl ⟨c, t, rfl⟩

/-- A frame read (R141): a drive or the exchange fails, or the nine events are complete and the word that was read is
checked. -/
theorem readFrame_cases (s : State) :
    (∃ c u, readFrame s = (.err (.transport c), u)) ∨
      ∃ r0 r1 u, readFrame s = (validated s.cfg (combined r0 r1), u) ∧
        u.log = (readFrameTrace r0 r1).reverse ++ s.log := by
  rcases appends_loadPulse.cases s with ⟨c, t, hpulse⟩ | ⟨_, t, hpulse, hcfg, hlog⟩
  · exact .inl ⟨c, t, andThen_err hpulse⟩
  rcases (appends_frame Config.diRequest0 Config.diRequest1).cases t with
    ⟨c, u, hframe⟩ | ⟨⟨r0, r1⟩, u, hframe, kcfg, klog⟩
  · exact .inl ⟨c, u, by rw [readFrame, andThen_ok hpulse, andThen_err hframe]⟩
  · have hrun := readFrame_of_frame hpulse hframe
    rw [kcfg, hcfg] at hrun
    refine .inr ⟨r0, r1, _, hrun, ?_⟩
    rw [setComb_log, klog, hlog, readFrameTrace, List.reverse_append, List.append_assoc]

/-! ### The errors an operation's own checks raise (R200 to R206) -/

/-- Every error of `m` is one of `errs` or a `Transport` error. -/
def FailsWith {α : Type} (errs : List ErrKind) (m : Op α) : Prop :=
  ∀ s e t, m s = (.err e, t) → e ∈ errs ∨ ∃ c, e = .transport c

theorem Appends.failsWith {α : Type} {m : Op α} {ev : α → List Event} (h : Appends m ev) (errs : List ErrKind) :
    FailsWith errs m := by
  intro s e t hm
  rcases h.cases s with ⟨c, u, hrun⟩ | ⟨a, u, hrun, -⟩ <;> rw [hrun] at hm <;> cases hm
  exact .inr ⟨c, rfl⟩

namespace FailsWith

variable {errs : List ErrKind}

theorem ret {α : Type} (a : α) : FailsWith errs (Machine.ret a) := fun _ _ _ h => by cases h

theorem raise {α : Type} {e : ErrKind} (he : e ∈ errs) : FailsWith errs (Machine.raise (α := α) e) :=
  fun _ _ _ h => by cases h; exact .inl he

theorem readCfg : FailsWith errs readCfg := fun _ _ _ h => by cases h

theorem writeCfgtmp (v : Byte) : FailsWith errs (writeCfgtmp v) := fun _ _ _ h => by cases h

theorem andThen {α β : Type} {m : Op α} {k : α → Op β} (hm : FailsWith errs m) (hk : ∀ a, FailsWith errs (k a)) :
    FailsWith errs (Machine.andThen m k) := by
  intro s e u h
  rcases andThen_eq_err h with hfail | ⟨a, t, -, hrest⟩
  · exact hm s e u hfail
  · exact hk a t e u hrest

theorem losing {α : Type} {m : Op α} (r : Byte) (hm : FailsWith errs m) :
    FailsWith errs (onError m (loseRegister r)) := by
  intro s e u h
  rcases hrun : m s with ⟨a | e', t⟩
  · rw [onError_ok hrun] at h
    cases h
  · rw [onError_err hrun] at h
    cases h
    exact hm s _ t hrun

theorem map {α β : Type} {m : Op α} (hm : FailsWith errs m) (f : α → β) :
    FailsWith errs (Machine.andThen m fun a => Machine.ret (f a)) := hm.andThen fun _ => ret _

theorem asUnit {α : Type} {m : Op α} (hm : FailsWith errs m) : FailsWith errs (Machine.asUnit m) :=
  hm.map fun _ => Value.unit

theorem require {ok : Bool} {e : ErrKind} (h : ok = false → e ∈ errs) : FailsWith errs (Machine.require ok e) := by
  cases ok with
  | false => exact raise (h rfl)
  | true => exact ret ()

theorem forEach {α : Type} {f : α → Op Unit} :
    ∀ {xs : List α}, (∀ x ∈ xs, FailsWith errs (f x)) → FailsWith errs (Machine.forEach xs f)
  | [], _ => ret ()
  | x :: xs, h => (h x (by simp)).andThen fun _ => forEach fun y hy => h y (by simp [hy])

/-! The shared sequences (R102, R111 to R113, R121) -/

theorem frame (t0 t1 : Byte) : FailsWith errs (frame t0 t1) := (appends_frame t0 t1).failsWith errs

theorem regWrite (r v : Byte) : FailsWith errs (regWrite r v) := (frame r v).map fun _ => ()

theorem cfgWrite (r v : Byte) : FailsWith errs (cfgWrite r v) := (regWrite r v).losing r

theorem regRead (r : Byte) : FailsWith errs (regRead r) :=
  (frame _ _).andThen fun _ => (frame _ _).andThen fun resp => readCfg.map fun cfg => respByte cfg resp

theorem opSelect (d : Direction) (b : Bank) : FailsWith errs (opSelect d b) := (appends_selectAddress _).failsWith errs

theorem readFrame (h : .diParity ∈ errs) : FailsWith errs readFrame := by
  intro s e t hm
  rcases readFrame_cases s with ⟨c, u, hrun⟩ | ⟨r0, r1, u, hrun, -⟩ <;> rw [hrun] at hm
  · cases hm
    exact .inr ⟨c, rfl⟩
  · obtain ⟨herr, rfl⟩ := Prod.mk.inj hm
    obtain ⟨rfl, -⟩ := rejected_of_validated herr
    exact .inl h

/-! The operations of the components (R114 to R116, R121 to R124, R146) -/

section Ports

variable {p : Byte} (hp : portInRange p = false → .illegalOutput ∈ errs)
include hp

theorem checkPort : FailsWith errs (checkPort p) := require hp

theorem opReadPort : FailsWith errs (opReadPort p) := (checkPort hp).andThen fun _ => (regRead _).map levelOfByte

theorem opWritePort {l : Level} (hl : l = .low → .unsupportedLevel ∈ errs) : FailsWith errs (opWritePort l p) := by
  refine (checkPort hp).andThen fun _ => ?_
  cases l with
  | low => exact raise (hl rfl)
  | high | hiz => exact regWrite _ _

theorem opCfgBits (bits : BitVec 2) : FailsWith errs (opCfgBits bits p) :=
  (checkPort hp).andThen fun _ => (regRead _).andThen fun _ => (writeCfgtmp _).andThen fun _ =>
    (writeCfgtmp _).andThen fun _ => cfgWrite _ _

theorem opCfgOutput {l : Level} (hl : l = .low → .unsupportedLevel ∈ errs) : FailsWith errs (opCfgOutput l p) :=
  (opWritePort hp hl).andThen fun _ => opCfgBits hp _

end Ports

theorem opReadBit {k : Byte} (hk : k.toNat ≤ 9 ∨ .illegalInput ∈ errs) (h : .diParity ∈ errs) :
    FailsWith errs (opReadBit k) := by
  refine (require fun hout => ?_).andThen fun _ => (readFrame h).map fun c => c.getLsbD k.toNat
  exact hk.resolve_left (of_decide_eq_false hout)

/-! The operation layer (R161, R181 to R188) -/

theorem locate (l : Byte) {e : ErrKind} (h : e ∈ errs) : FailsWith errs (locate l e) := by
  refine (require fun _ => h).andThen fun _ => ?_
  cases bankOfOrdinal? (logicalBankOrdinal l) with
  | none => exact raise h
  | some b => exact ret _

theorem opInit : FailsWith errs opInit := by
  have hport {ps : List Byte} (hps : ∀ p ∈ ps, portInRange p = true) {p : Byte} (hp : p ∈ ps) :
      portInRange p = false → .illegalOutput ∈ errs := by simp [hps p hp]
  have houtputs : FailsWith errs (Machine.forEach enablePorts (Machine.opCfgOutput .hiz)) :=
    forEach fun _ hp => opCfgOutput (hport (by decide) hp) (by simp)
  have hinputs (u : Bool) {ps : List Byte} (hps : ∀ p ∈ ps, portInRange p = true) :
      FailsWith errs (Machine.forEach ps (opCfgInput u)) := forEach fun _ hp => opCfgBits (hport hps hp) _
  exact forEach fun b _ => (opSelect .dout b).andThen fun _ => houtputs.andThen fun _ =>
    (hinputs true (ps := statusPorts) (by decide)).andThen fun _ =>
    (hinputs false (ps := supplyPorts) (by decide)).andThen fun _ =>
    (hinputs true (ps := thermalPorts) (by decide)).andThen fun _ => readCfg.andThen fun _ => regWrite _ _

theorem opSetOutput {l : Level} (a : Byte) (h : .illegalOutput ∈ errs) (hl : l = .low → .unsupportedLevel ∈ errs) :
    FailsWith errs (opSetOutput l a) :=
  (locate a h).andThen fun _ => (opSelect _ _).andThen fun _ => opWritePort (fun _ => h) hl

theorem readTwo {p q : Byte} (hp : portInRange p = true) (hq : portInRange q = true) : FailsWith errs (readTwo p q) :=
  (opReadPort (by simp [hp])).andThen fun l => (opReadPort (by simp [hq])).map fun m => (l, m)

theorem readSupply : FailsWith errs readSupply :=
  (readTwo rfl rfl).andThen fun ls => readCfg.map fun cfg => outSupply cfg.outSupply ls.1 ls.2

theorem opGetOutputState (a : Byte) (h : .illegalOutput ∈ errs) : FailsWith errs (opGetOutputState a) :=
  (locate a h).andThen fun _ => (opSelect _ _).andThen fun _ => readSupply.andThen fun _ =>
    (require fun _ => h).andThen fun _ => (opReadPort fun _ => h).map lineOfLevel

theorem opGetOutputSupply (b : Bank) : FailsWith errs (opGetOutputSupply b) :=
  (opSelect _ _).andThen fun _ => readSupply.map outSupplyState

theorem opGetOutputThermal (b : Bank) : FailsWith errs (opGetOutputThermal b) :=
  (opSelect _ _).andThen fun _ => (readTwo rfl rfl).andThen fun ls => readCfg.map fun cfg =>
    outThermal cfg.outThermal ls.1 ls.2

theorem opGetInput (a : Byte) (h : .illegalInput ∈ errs) (hd : .diParity ∈ errs) : FailsWith errs (opGetInput a) :=
  (locate a h).andThen fun _ => (opSelect _ _).andThen fun _ => (opReadBit (.inr h) hd).map levelOfBit

theorem opGetInputSupply (b : Bank) (hd : .diParity ∈ errs) : FailsWith errs (opGetInputSupply b) :=
  (opSelect _ _).andThen fun _ => (opReadBit (.inl (by decide)) hd).map inSupply

theorem opGetInputThermal (b : Bank) (hd : .diParity ∈ errs) : FailsWith errs (opGetInputThermal b) :=
  (opSelect _ _).andThen fun _ => (opReadBit (.inl (by decide)) hd).map inThermal

end FailsWith

/-- The error of a level check (R203). -/
def levelErrors : Level → List ErrKind
  | .low => [.unsupportedLevel]
  | .high => []
  | .hiz => []

/-- The errors that the checks of an instruction may raise (R201 to R204); every other error is `Transport`. -/
def checkErrors : Instr → List ErrKind
  | .setOutput l _ => .illegalOutput :: levelErrors l
  | .getOutputState _ => [.illegalOutput]
  | .getInput _ => [.illegalInput, .diParity]
  | .getInputSupply _ => [.diParity]
  | .getInputThermal _ => [.diParity]
  | .peWritePort l _ => .illegalOutput :: levelErrors l
  | .peReadPort _ => [.illegalOutput]
  | .peCfgOutput l _ => .illegalOutput :: levelErrors l
  | .peCfgInput _ _ => [.illegalOutput]
  | .peCfgBits _ _ => [.illegalOutput]
  | .diReadBit _ => [.illegalInput, .diParity]
  | .direq16 => [.diParity]
  | _ => []

/-- Every instruction runs an operation whose errors are those of its checks and `Transport`. -/
theorem exec_failsWith (i : Instr) :
    ∃ m : Op Value, FailsWith (checkErrors i) m ∧ ∀ s, exec i s = runCommand i m s := by
  have hframe (t0 t1 : Byte) : FailsWith [] (asUnit (frame t0 t1)) := (FailsWith.frame t0 t1).asUnit
  have hselect (d : Direction) (b : Bank) : FailsWith [] (asUnit (opSelect d b)) := (FailsWith.opSelect d b).asUnit
  have hlow (l : Level) : l = .low → ErrKind.unsupportedLevel ∈ ErrKind.illegalOutput :: levelErrors l := by
    rintro rfl
    decide
  cases i with
  | init => exact ⟨_, FailsWith.opInit.asUnit, fun _ => rfl⟩
  | setOutput l a => exact ⟨_, (FailsWith.opSetOutput a (.head _) (hlow l)).asUnit, fun _ => rfl⟩
  | getOutputState a => exact ⟨_, (FailsWith.opGetOutputState a (.head _)).map Value.line, fun _ => rfl⟩
  | getOutputSupply b => exact ⟨_, (FailsWith.opGetOutputSupply b).map Value.supply, fun _ => rfl⟩
  | getOutputThermal b => exact ⟨_, (FailsWith.opGetOutputThermal b).map Value.thermal, fun _ => rfl⟩
  | getInput a => exact ⟨_, (FailsWith.opGetInput a (.head _) (.tail _ (.head _))).map Value.level, fun _ => rfl⟩
  | getInputSupply b => exact ⟨_, (FailsWith.opGetInputSupply b (.head _)).map Value.supply, fun _ => rfl⟩
  | getInputThermal b => exact ⟨_, (FailsWith.opGetInputThermal b (.head _)).map Value.thermal, fun _ => rfl⟩
  | peWritePort l p => exact ⟨_, (FailsWith.opWritePort (fun _ => .head _) (hlow l)).asUnit, fun _ => rfl⟩
  | peReadPort p => exact ⟨_, (FailsWith.opReadPort fun _ => .head _).map Value.level, fun _ => rfl⟩
  | peCfgOutput l p => exact ⟨_, (FailsWith.opCfgOutput (fun _ => .head _) (hlow l)).asUnit, fun _ => rfl⟩
  | peCfgInput u p => exact ⟨_, (FailsWith.opCfgBits (fun _ => .head _) (fieldInput u)).asUnit, fun _ => rfl⟩
  | peCfgBits b p => exact ⟨_, (FailsWith.opCfgBits (fun _ => .head _) b).asUnit, fun _ => rfl⟩
  | peWakeup u => exact ⟨_, (FailsWith.regWrite _ _).asUnit, fun _ => rfl⟩
  | diReadBit k => exact ⟨_, (FailsWith.opReadBit (.inr (.head _)) (.tail _ (.head _))).map Value.bit, fun _ => rfl⟩
  | fCfgWrite q c => exact ⟨_, (FailsWith.cfgWrite _ _).asUnit, fun _ => rfl⟩
  | direq16 => exact ⟨_, (FailsWith.readFrame (.head _)).asUnit, fun _ => rfl⟩
  | fPortWrite | fPortReadReq | fNop | fCfgReadReq | fGcfgWrite => exact ⟨_, hframe _ _, fun _ => rfl⟩
  | select d b => exact ⟨_, hselect d b, fun _ => rfl⟩
  | selOut1 | selOut2 | selOut3 | selOut4 | selOut5 | selOut6 => exact ⟨_, hselect .dout _, fun _ => rfl⟩
  | selIn1 | selIn2 | selIn3 | selIn4 | selIn5 | selIn6 => exact ⟨_, hselect .din _, fun _ => rfl⟩

/-! ### `DiParity` (R145, R204) -/

/-- `DiParity` is among the errors of five forms of instruction. -/
theorem diParity_mem_checkErrors {i : Instr} (h : .diParity ∈ checkErrors i) :
    i = .direq16 ∨ (∃ k, i = .diReadBit k) ∨ (∃ l, i = .getInput l) ∨ (∃ b, i = .getInputSupply b) ∨
      ∃ b, i = .getInputThermal b := by
  have hlevel (l : Level) : ErrKind.diParity ∉ ErrKind.illegalOutput :: levelErrors l := by cases l <;> decide
  cases i with
  | direq16 => exact .inl rfl
  | diReadBit k => exact .inr (.inl ⟨k, rfl⟩)
  | getInput l => exact .inr (.inr (.inl ⟨l, rfl⟩))
  | getInputSupply b => exact .inr (.inr (.inr (.inl ⟨b, rfl⟩)))
  | getInputThermal b => exact .inr (.inr (.inr (.inr ⟨b, rfl⟩)))
  | setOutput l | peWritePort l | peCfgOutput l => exact absurd h (hlevel l)
  | _ => simp [checkErrors] at h

/-- `DiParity` from `m` means that its last events are a whole frame read, of a word that fails a check. -/
def DiParityShown {α : Type} (m : Op α) : Prop :=
  ∀ s u, m s = (.err .diParity, u) → ∃ pre r0 r1, u.log = (pre ++ readFrameTrace r0 r1).reverse ++ s.log ∧
    wordAccepted s.cfg (combined r0 r1) = false

theorem diParityShown_readFrame : DiParityShown readFrame := by
  intro s u hm
  rcases readFrame_cases s with ⟨c, v, hrun⟩ | ⟨r0, r1, v, hrun, hlog⟩ <;> rw [hrun] at hm
  · cases hm
  · obtain ⟨herr, rfl⟩ := Prod.mk.inj hm
    obtain ⟨-, hrejected⟩ := rejected_of_validated herr
    exact ⟨[], r0, r1, hlog, hrejected⟩

namespace DiParityShown

theorem map {α β : Type} {m : Op α} (hm : DiParityShown m) (f : α → β) :
    DiParityShown (andThen m fun a => ret (f a)) := by
  intro s u h
  rcases andThen_eq_err h with hfail | ⟨a, t, -, hret⟩
  · exact hm s u hfail
  · cases hret

/-- What comes before, and does not itself answer `DiParity`, only puts events before. -/
theorem after {α β : Type} {m : Op α} {k : α → Op β} {errs : List ErrKind} (hm : FromPrimitives m)
    (hfails : FailsWith errs m) (hno : .diParity ∉ errs) (hk : ∀ a, DiParityShown (k a)) :
    DiParityShown (andThen m k) := by
  intro s u h
  rcases andThen_eq_err h with hfail | ⟨a, t, hok, hrest⟩
  · rcases hfails s _ _ hfail with hmem | ⟨c, hc⟩
    · exact absurd hmem hno
    · cases hc
  · have hstart : GrownFrom s s := ⟨⟨rfl, rfl, rfl, rfl, rfl⟩, List.suffix_refl _⟩
    obtain ⟨⟨hcfg, -⟩, before, hbefore⟩ := ((keptByPrimitives_grownFrom s).keeps hm).after hstart hok
    obtain ⟨pre, r0, r1, hlog, hword⟩ := hk a t u hrest
    refine ⟨before.reverse ++ pre, r0, r1, ?_, by rwa [hcfg] at hword⟩
    simp [hlog, ← hbefore]

theorem opReadBit (k : Byte) : DiParityShown (opReadBit k) :=
  after (errs := [.illegalInput]) (.require _ (by decide)) (.require fun _ => by decide) (by decide) fun _ =>
    diParityShown_readFrame.map _

theorem afterSelect {α : Type} (b : Bank) {k : Unit → Op α} (hk : ∀ a, DiParityShown (k a)) :
    DiParityShown (andThen (opSelect .din b) k) :=
  after (errs := []) (.opSelect .din b) (.opSelect .din b) (by decide) hk

end DiParityShown

/-- The five forms of instruction answer `DiParity` only after a whole frame read. -/
theorem exec_diParityShown {i : Instr} (h : .diParity ∈ checkErrors i) :
    ∃ m : Op Value, DiParityShown m ∧ ∀ s, exec i s = runCommand i m s := by
  rcases diParity_mem_checkErrors h with rfl | ⟨k, rfl⟩ | ⟨l, rfl⟩ | ⟨b, rfl⟩ | ⟨b, rfl⟩
  · exact ⟨_, diParityShown_readFrame.map _, fun _ => rfl⟩
  · exact ⟨_, (DiParityShown.opReadBit k).map Value.bit, fun _ => rfl⟩
  · have hlocated : DiParityShown (opGetInput l) :=
      .after (errs := [.illegalInput]) (.locate l (by decide)) (.locate l (by decide)) (by decide) fun bk =>
        .afterSelect bk.1 fun _ => (DiParityShown.opReadBit _).map _
    exact ⟨_, hlocated.map Value.level, fun _ => rfl⟩
  · exact ⟨_, (DiParityShown.afterSelect b fun _ => (DiParityShown.opReadBit _).map inSupply).map Value.supply,
      fun _ => rfl⟩
  · exact ⟨_, (DiParityShown.afterSelect b fun _ => (DiParityShown.opReadBit _).map inThermal).map Value.thermal,
      fun _ => rfl⟩

/-- Status 4 is that of `DiParity` alone (R86). -/
theorem eq_diParity_of_rspStatus {r : Res Value} (h : rspStatus (rspWord r) = 4) : r = .err .diParity := by
  cases r with
  | ok v =>
    rw [rspStatus_ok] at h
    cases h
  | err e =>
    cases e with
    | diParity => rfl
    | transport c => cases c <;> cases h
    | illegalInput | illegalOutput | unsupportedLevel | notPresent => cases h

/-- The next state's response and trace are those of the run of the instruction's operation. -/
theorem run_of_exec {i : Instr} {m : Op Value} {s t : State} (hrun : exec i s = runCommand i m s)
    (hexec : exec i s = .next t) :
    ∃ r u, m (s.begin i) = (r, u) ∧ t.rsp = some (rspWord r) ∧ t.log = u.log := by
  obtain ⟨t', hexec', hrsp, hlog, -⟩ := leaves_of_run hrun (r := (m (s.begin i)).1) (u := (m (s.begin i)).2) rfl
  obtain rfl := Host.Outcome.next.inj (hexec'.symm.trans hexec)
  exact ⟨_, _, rfl, hrsp, hlog⟩

/-- Settles O42: the error is one of the instruction's checks, and its operation raises it only after the frame. -/
theorem diParityOnlyAfterAWholeFrame : Obligations.DiParityOnlyAfterAWholeFrame := by
  rintro i s t hexec ⟨w, hw, hstatus⟩
  have hdiParity {m : Op Value} (hrun : exec i s = runCommand i m s) :
      t.rsp = some 0x4000 ∧ ∃ u, m (s.begin i) = (.err .diParity, u) ∧ t.log = u.log := by
    obtain ⟨r, u, hm, hrsp, hlog⟩ := run_of_exec hrun hexec
    obtain rfl : w = rspWord r := Option.some.inj (hw.symm.trans hrsp)
    rw [eq_diParity_of_rspStatus hstatus] at hm hrsp
    exact ⟨hrsp, u, hm, hlog⟩
  obtain ⟨m, hfails, hrun⟩ := exec_failsWith i
  obtain ⟨hrsp, u, hm, -⟩ := hdiParity (hrun s)
  have hmem : .diParity ∈ checkErrors i := (hfails _ _ _ hm).resolve_right nofun
  obtain ⟨m', hshown, hrun'⟩ := exec_diParityShown hmem
  obtain ⟨-, u', hm', hlog⟩ := hdiParity (hrun' s)
  obtain ⟨pre, r0, r1, hevents, hword⟩ := hshown _ _ hm'
  refine ⟨hrsp, diParity_mem_checkErrors hmem, pre, r0, r1, by simp [State.trace, hlog, hevents], ?_⟩
  rw [wordAccepted, begin_cfg] at hword
  cases hheader : headerOk s.cfg (combined r0 r1) with
  | false => exact .inl rfl
  | true => exact .inr ⟨rfl, by rwa [hheader, Bool.true_and] at hword⟩

end Sys2Proof.Machine
end

section
/-! SUPPORT. The statements of the family translator about values: the translation of logical addresses (O7), the
physical addresses (O14) and the decodings (O12, O16, O17). -/

namespace Sys2Proof.Machine

/-! ### Logical addresses (R161, R162) -/

/-- Every logical address lies in a bank (R162, R163). -/
theorem exists_bank_of_logical {l : BitVec 8} (hlo : 1 ≤ l.toNat) (hhi : l.toNat ≤ 48) :
    ∃ b, bankOrdinal b = (l.toNat - 1) / 8 + 1 := by
  have hsome : (bankOfOrdinal? ((l.toNat - 1) / 8 + 1)).isSome = true := by
    rw [isSome_bankOfOrdinal?, Bool.and_eq_true, decide_eq_true_eq, decide_eq_true_eq]
    omega
  obtain ⟨b, hb⟩ := Option.isSome_iff_exists.1 hsome
  exact ⟨b, ((bankOfOrdinal?_eq_some_iff _ b).1 hb).symm⟩

theorem bankOrdinal_bounds (b : Bank) : 1 ≤ bankOrdinal b ∧ bankOrdinal b ≤ 6 := by cases b <;> decide

/-- Settles O7: `locate` is the division by 8, and the inverse stays in one byte. -/
theorem logicalAddressesTranslateOneToOne : Obligations.LogicalAddressesTranslateOneToOne := by
  refine ⟨fun l hlo hhi => ?forward, fun b k hlo hhi => ?inverse⟩
  case forward =>
    obtain ⟨b, hb⟩ := exists_bank_of_logical hlo hhi
    have hlocal : logicalLocal l = (l.toNat - 1) % 8 + 1 := rfl
    have hback : (bankOrdinal b - 1) * 8 + logicalLocal l = l.toNat := by omega
    exact ⟨b, hb, hlocal, by omega, by omega, hback,
      fun e s => congrFun (locate_logical e (by omega) (by omega) hback.symm) s⟩
  case inverse =>
    obtain ⟨hb1, hb6⟩ := bankOrdinal_bounds b
    refine ⟨by omega, by omega, fun e s => congrFun (locate_logical e hlo hhi ?_) s⟩
    rw [BitVec.toNat_ofNat]
    omega

/-! ### Physical addresses (R164, R165) -/

theorem toNat_enablePort {k : Nat} (hk : k ≤ 8) : (enablePort k).toNat = k + 3 := by
  simp only [enablePort, BitVec.toNat_ofNat]
  omega

/-- The request byte of a port's level register as a number (R73). -/
theorem toNat_readRequest_portReg {p : Byte} (hlo : 4 ≤ p.toNat) (hhi : p.toNat ≤ 31) :
    (readRequest (portReg p)).toNat = 0xA0 + p.toNat := by
  obtain ⟨-, -, -, -, -, -, htoNat, -⟩ := registerBytesOfPorts p hlo hhi
  exact htoNat

/-- Settles O14: the ports of a channel are in range, so their register bytes are sums. -/
theorem physicalAddressesOfAChannel : Obligations.PhysicalAddressesOfAChannel := by
  refine ⟨fun b k hlo hhi => ?channel, rfl, rfl, rfl, rfl, rfl, rfl, rfl, rfl, rfl, rfl, rfl, rfl, rfl⟩
  have henable := toNat_enablePort hhi
  have hstate := toNat_statePort hhi
  have hwrite := toNat_portReg (p := enablePort k) (by omega) (by omega)
  have hread := toNat_readRequest_portReg (p := statePort k) (by omega) (by omega)
  obtain ⟨hout, hin⟩ : (chipAddr .dout b).toNat = 14 - bankOrdinal b ∧ (chipAddr .din b).toNat = 6 - bankOrdinal b :=
    chipAddressesAreTheTwelveOfTheTable.1 b
  exact ⟨hout, henable, by omega, by omega, by omega, hstate, by omega, by omega, by omega, by omega, hin,
    toNat_inputIndex hhi⟩

/-! ### Value decodings (R172 to R175) -/

/-- Settles O12: by cases on the level. -/
theorem toggleIsAnInvolution : Obligations.ToggleIsAnInvolution :=
  ⟨rfl, rfl, rfl, fun l => by cases l <;> rfl⟩

/-- Settles O16: each decoding is a table of two entries. -/
theorem inputDiagnosticDecodings : Obligations.InputDiagnosticDecodings :=
  ⟨rfl, rfl, fun b => by cases b <;> decide, rfl, rfl, rfl, rfl⟩

/-- An output bank's supply is 24 V, 12 V or none; `Powered` is an input bank's alone (R173). -/
theorem outSupplyState_ne_powered (d : OutSupply) : outSupplyState d ≠ .powered := by cases d <;> decide

/-- Settles O17: the Hot bit is looked at first, then the Warm bit; the default tables are data. -/
theorem outputDiagnosticDecodings : Obligations.OutputDiagnosticDecodings := by
  refine ⟨fun t l m => ⟨fun hhot => ?hot, fun hhot hwarm => ?warm, fun hhot hwarm => ?normal⟩,
    fun d l m => outSupplyState_ne_powered _, rfl, rfl, rfl, rfl, rfl, rfl, rfl, rfl⟩
  case hot => rw [outThermal, if_pos hhot]
  case warm => rw [outThermal, if_neg (by simp [hhot]), if_pos hwarm]
  case normal => rw [outThermal, if_neg (by simp [hhot]), if_neg (by simp [hwarm])]

end Sys2Proof.Machine
end

section
/-! SUPPORT. The statements of the family translator about commands: a logical address out of range (O39), the write of
an output (O31), the queries of an output chip (O32, O33) and of an input chip (O35). -/

namespace Sys2Proof.Machine

/-! ### A logical address out of range (R161) -/

/-- An operation that translates its logical address first ends there when the address is out of range. -/
theorem locate_out {α : Type} {l : BitVec 8} (hl : l.toNat < 1 ∨ 48 < l.toNat) (e : ErrKind)
    (k : Bank × Nat → Op α) : andThen (locate l e) k = raise e := by
  have hout : logicalInRange l = false := by
    rw [logicalInRange, Bool.and_eq_false_iff, decide_eq_false_iff_not, decide_eq_false_iff_not, Config.nLogical]
    omega
  rw [locate, hout, require_false, andThen_raise, andThen_raise]

/-- Settles O39: the range check is the first thing each of the operations does. -/
theorem logicalOutsideRangeIsTurnedAway : Obligations.LogicalOutsideRangeIsTurnedAway := by
  intro l s hl
  refine ⟨fun v => turnedAway_of_raise (m := asUnit (opSetOutput v l)) rfl ?output,
    turnedAway_of_raise (m := andThen (opGetOutputState l) fun v => ret (.line v)) rfl ?state,
    turnedAway_of_raise (m := andThen (opGetInput l) fun v => ret (.level v)) rfl ?input⟩
  case output => rw [opSetOutput, locate_out hl, asUnit, andThen_raise]
  case state => rw [opGetOutputState, locate_out hl, andThen_raise]
  case input => rw [opGetInput, locate_out hl, andThen_raise]

/-! ### A selection, undisturbed (R102) -/

/-- From `s` to `t` the chip of a direction and bank was selected: its five events, its address on the select lines, and
the rest of the block, the world and the chips as before. -/
structure Selected (d : Direction) (b : Bank) (s t : State) : Prop where
  log : t.log = (selectTrace (chipAddr d b)).reverse ++ s.log
  lines : t.lines = s.lines.withAddress (chipAddr d b)
  working : SameWorking s t
  world : SameWorld s t
  chips : t.chips = s.chips

theorem opSelect_quiet {n : Nat} {s : State} (d : Direction) (b : Bank) (h : Quiet (n + 4) s) :
    ∃ t, opSelect d b s = (.ok (), t) ∧ Quiet n t ∧ Selected d b s t := by
  obtain ⟨t, hrun, hq, hlog, hlines, hbuf0, hbuf1, hcomb, hcfgtmp, ⟨hworld, -⟩, hchips, -⟩ :=
    select_quiet (chipAddr d b) h
  exact ⟨t, hrun, hq, hlog, hlines, ⟨hbuf0, hbuf1, hcomb, hcfgtmp⟩, hworld, hchips⟩

theorem Selected.addresses {d : Direction} {b : Bank} {s t : State} (h : Selected d b s t) : Addresses t d b := by
  rw [Addresses, h.lines, address_withAddress]

/-- From `s` to `t` the block is as a command leaves it that has selected a bank's output chip and sent it frames: `BUF`
and the select lines aside it is as before, with `CS` high. -/
abbrev OutputChipServed (b : Bank) (s t : State) : Prop :=
  Addresses t .dout b ∧ t.lines.cs = true ∧ t.lines.load = s.lines.load ∧ t.comb = s.comb ∧ t.cfgtmp = s.cfgtmp

theorem Selected.thenSent {b : Bank} {ev : List Event} {s t u : State} (h : Selected .dout b s t)
    (k : SentFrames ev t u) (hcfgtmp : u.cfgtmp = t.cfgtmp) :
    u.log = (selectTrace (chipAddr .dout b) ++ ev).reverse ++ s.log ∧ SameWorld s u ∧ OutputChipServed b s u := by
  obtain ⟨-, -, hcomb, hcfgtmp'⟩ := h.working
  refine ⟨by rw [k.log, h.log, List.reverse_append, List.append_assoc], h.world.trans k.world,
    k.address.trans h.addresses, by rw [k.lines], ?_, k.comb.trans hcomb, hcfgtmp.trans hcfgtmp'⟩
  rw [k.lines, h.lines]
  rfl

/-- Completing the command leaves the block so. -/
theorem OutputChipServed.settled {b : Bank} {s u t : State} (h : OutputChipServed b s u) (hw : SameWorking u t)
    (hlines : t.lines = u.lines) : OutputChipServed b s t := by
  obtain ⟨-, -, hcomb, hcfgtmp⟩ := hw
  simpa only [OutputChipServed, Addresses, hlines, hcomb, hcfgtmp] using h

/-! ### The write of an output (R164, R182) -/

/-- A port write of a level that has an encoding, to a port in range, is the write of the port's register (R115). -/
theorem opWritePort_eq_regWrite {l : Level} {p : Byte} (hlo : 4 ≤ p.toNat) (hhi : p.toNat ≤ 31) (hl : l ≠ .low) :
    opWritePort l p = regWrite (portReg p) (if l = .high then 0x01 else 0x00) := by
  rw [opWritePort, checkPort_in hlo hhi]
  cases l with
  | low => exact absurd rfl hl
  | high | hiz => rfl

/-- The register byte of an enable port and the register it names (R73, R164). -/
theorem portReg_enablePort {k : Nat} (hk : k ≤ 8) :
    portReg (enablePort k) = BitVec.ofNat 8 (0x20 + (k + 3)) ∧
      regOf (portReg (enablePort k)) = BitVec.ofNat 7 (0x20 + (k + 3)) := by
  interval_cases k <;> exact ⟨rfl, rfl⟩

/-- Settles O31: the translation, the selection and one register write. -/
theorem setOutputWritesTheEnablePort : Obligations.SetOutputWritesTheEnablePort := by
  intro l a b k s hl hlo hhi ha hq
  have hport := toNat_enablePort hhi
  have hplo : 4 ≤ (enablePort k).toNat := by omega
  have hphi : (enablePort k).toNat ≤ 31 := by omega
  obtain ⟨hreg, haddr⟩ := portReg_enablePort hhi
  obtain ⟨hw, hz⟩ := portReg_isWrite hplo hphi
  obtain ⟨u, hselect, hqu, hsel⟩ := opSelect_quiet (n := 3) (s := s.begin (.setOutput l a)) .dout b hq
  obtain ⟨r0, r1, x, hwrite, -, hlog, hlines, hbuf0, hbuf1, hcomb, hcfgtmp, ⟨hworld, -⟩, hchips, -⟩ :=
    regWrite_quiet (n := 0) (portReg (enablePort k)) (if l = .high then 0x01 else 0x00) hqu
  obtain ⟨hlog', hworld', hserved⟩ := hsel.thenSent ⟨hlog, hlines, hcomb, hworld⟩ hcfgtmp
  rw [hreg] at hlog'
  have hrun : opSetOutput l a (s.begin (.setOutput l a)) = (.ok (), x) := by
    rw [opSetOutput, locate_logical _ hlo hhi ha, andThen_ret, andThen_ok hselect,
      opWritePort_eq_regWrite hplo hphi hl, hwrite]
  obtain ⟨t, hcompletes, hworking, klines, kchips⟩ :=
    completes_of_run (m := asUnit (opSetOutput l a)) rfl (andThen_ok hrun) hlog' hworld'
  obtain ⟨kaddr, kcs, kload, kcomb, kcfgtmp⟩ := hserved.settled hworking klines
  obtain ⟨kbuf0, kbuf1, -⟩ := hworking
  refine ⟨r0, r1, t, hcompletes, kbuf0.trans hbuf0, kbuf1.trans hbuf1, kcomb, kcfgtmp, kaddr, kcs, kload,
    fun hrules hwf => ?_⟩
  have hchipsu : u.chips = s.chips := hsel.chips
  have hstored := chipsTake_write_frame (if l = .high then 0x01 else 0x00) hsel.addresses hw hz (by rw [hchipsu, hwf])
  simpa only [SameMemExcept, SameHidden, haddr, hchipsu, ← hchips, ← kchips hrules] using hstored

/-! ### Port reads one after another, undisturbed (R113, R116) -/

/-- Reads of the same chips, one after another. -/
theorem ChipsRead.trans {s t u : State} (h : ChipsRead s t) (k : ChipsRead t u)
    (ha : t.lines.address = s.lines.address) : ChipsRead s u := by
  obtain ⟨hregs, hlat, hpend, hun⟩ := h
  obtain ⟨kregs, klat, kpend, kun⟩ := k
  simp only [Addresses, ha] at kpend kun
  exact ⟨kregs.trans hregs, klat.trans hlat, fun b hb => (kpend b hb).trans (hpend b hb),
    fun hb => (kun hb).trans (hun hb)⟩

/-- From `s` to `t` ports of the selected chip were read, with the events `ev`. -/
structure PortsRead (ev : List Event) (s t : State) : Prop where
  sent : SentFrames ev s t
  cfgtmp : t.cfgtmp = s.cfgtmp
  chips : ChipsRead s t

theorem PortsRead.trans {ev ev' : List Event} {s t u : State} (h : PortsRead ev s t) (k : PortsRead ev' t u) :
    PortsRead (ev ++ ev') s u :=
  ⟨h.sent.trans k.sent, k.cfgtmp.trans h.cfgtmp, h.chips.trans k.chips h.sent.address⟩

/-- The level that a port read answers, given the response of its no-operation frame (R75, R76). -/
abbrev levelRead (cfg : Params) (a : Byte × Byte) : Level := levelOfByte (respByte cfg a)

theorem opReadPort_quiet {n : Nat} {s : State} {p : Byte} (hlo : 4 ≤ p.toNat) (hhi : p.toNat ≤ 31)
    (h : Quiet (n + 6) s) :
    ∃ q a t, opReadPort p s = (.ok (levelRead s.cfg a), t) ∧ Quiet n t ∧
      PortsRead (regReadTrace (portReg p) q a) s t ∧ t.buf0 = a.1 ∧ t.buf1 = a.2 := by
  obtain ⟨q, a, t, hrun, hq, hsent, hbuf0, hbuf1, hcfgtmp, hchips⟩ := regRead_sends (portReg p) h
  refine ⟨q, a, t, ?_, hq, ⟨hsent, hcfgtmp, hchips⟩, hbuf0, hbuf1⟩
  rw [opReadPort, checkPort_in hlo hhi, andThen_ok hrun]
  rfl

theorem readTwo_quiet {n : Nat} {s : State} {p p' : Byte} (hp : 4 ≤ p.toNat ∧ p.toNat ≤ 31)
    (hp' : 4 ≤ p'.toNat ∧ p'.toNat ≤ 31) (h : Quiet (n + 12) s) :
    ∃ q a q' a' t, readTwo p p' s = (.ok (levelRead s.cfg a, levelRead s.cfg a'), t) ∧ Quiet n t ∧
      PortsRead (regReadTrace (portReg p) q a ++ regReadTrace (portReg p') q' a') s t ∧
      t.buf0 = a'.1 ∧ t.buf1 = a'.2 := by
  obtain ⟨q, a, t, hrun, hq, hread, -⟩ := opReadPort_quiet (n := n + 6) hp.1 hp.2 h
  obtain ⟨q', a', u, hrun', hq', hread', hbuf0, hbuf1⟩ := opReadPort_quiet hp'.1 hp'.2 hq
  refine ⟨q, a, q', a', u, ?_, hq', hread.trans hread', hbuf0, hbuf1⟩
  rw [readTwo, andThen_ok hrun, andThen_ok hrun', hread.sent.world.cfg]
  rfl

/-! ### The queries of an output chip (R183 to R185) -/

/-- From `s` to `t` nothing was stored, and only the output chip of bank `b` may have captured a value. -/
abbrev OutputChipRead (b : Bank) (s t : State) : Prop :=
  t.chips.regs = s.chips.regs ∧ t.chips.lat = s.chips.lat ∧ ∀ b', b' ≠ b → t.chips.pend.get b' = s.chips.pend.get b'

theorem Selected.thenRead {b : Bank} {s t u : State} (h : Selected .dout b s t) (k : ChipsRead t u) :
    OutputChipRead b s u := by
  obtain ⟨kregs, klat, kpend, -⟩ := k
  rw [h.chips] at kregs klat kpend
  refine ⟨kregs, klat, fun b' hne => kpend b' fun hb' => hne ?_⟩
  simpa using congrArg chipAt (hb'.symm.trans h.addresses)

/-- The two output diagnostics: the port they read first, and the value they make of the two levels. -/
abbrev OutputDiagnostic (i : Instr) (p : Byte) (v : Level → Level → Value) (b : Bank) (cfg : Params) : Prop :=
  i = .getOutputSupply b ∧ p = 20 ∧ (∀ l m, v l m = .supply (outSupplyState (outSupply cfg.outSupply l m))) ∨
    i = .getOutputThermal b ∧ p = 22 ∧ (∀ l m, v l m = .thermal (outThermal cfg.outThermal l m))

/-- Each is a selection, two port reads and a decoding under the parameters (R183, R184). -/
theorem OutputDiagnostic.exec_eq {i : Instr} {p : Byte} {v : Level → Level → Value} {b : Bank} {s : State}
    (h : OutputDiagnostic i p v b s.cfg) :
    (4 ≤ p.toNat ∧ p.toNat ≤ 31) ∧ (4 ≤ (p + 1).toNat ∧ (p + 1).toNat ≤ 31) ∧
      ∃ w : Params → Level → Level → Value, v = w s.cfg ∧
        exec i s = runCommand i (andThen (opSelect .dout b) fun _ => andThen (readTwo p (p + 1)) fun ls =>
          andThen readCfg fun cfg => ret (w cfg ls.1 ls.2)) s := by
  rcases h with ⟨rfl, rfl, hv⟩ | ⟨rfl, rfl, hv⟩
  · refine ⟨by decide, by decide, fun cfg l m => .supply (outSupplyState (outSupply cfg.outSupply l m)),
      funext₂ hv, ?_⟩
    rw [exec, execGetOutputSupply, opGetOutputSupply, readSupply]
    simp only [andThen_assoc, andThen_ret]
    rfl
  · refine ⟨by decide, by decide, fun cfg l m => .thermal (outThermal cfg.outThermal l m), funext₂ hv, ?_⟩
    rw [exec, execGetOutputThermal, opGetOutputThermal]
    simp only [andThen_assoc, andThen_ret]
    rfl

/-- Settles O32: the selection and the two port reads, whose levels are decoded. -/
theorem outputDiagnosticsReadTwoPorts : Obligations.OutputDiagnosticsReadTwoPorts := by
  intro i p v b s hi hq
  obtain ⟨hp, hp', w, rfl, hexec⟩ := OutputDiagnostic.exec_eq hi
  obtain ⟨u, hselect, hqu, hsel⟩ := opSelect_quiet (n := 12) (s := s.begin i) .dout b hq
  obtain ⟨q, a, q', a', x, hread, -, ⟨hsent, hcfgtmp, hchips⟩, hbuf0, hbuf1⟩ := readTwo_quiet (n := 0) hp hp' hqu
  obtain ⟨hlog, hworld, hserved⟩ := hsel.thenSent hsent hcfgtmp
  have hcfg : u.cfg = s.cfg := hsel.world.cfg
  have hcfg' : x.cfg = s.cfg := hworld.cfg
  rw [hcfg] at hread
  have hrun : andThen (opSelect .dout b) (fun _ => andThen (readTwo p (p + 1)) fun ls => andThen readCfg fun cfg =>
      ret (w cfg ls.1 ls.2)) (s.begin i) = (.ok (w s.cfg (levelRead s.cfg a) (levelRead s.cfg a')), x) := by
    rw [andThen_ok hselect, andThen_ok hread, andThen_readCfg, hcfg']
    rfl
  rw [← List.append_assoc] at hlog
  obtain ⟨t, hcompletes, hworking, klines, kchips⟩ := completes_of_run hexec hrun hlog hworld
  obtain ⟨kaddr, kcs, kload, kcomb, kcfgtmp⟩ := hserved.settled hworking klines
  obtain ⟨kbuf0, kbuf1, -⟩ := hworking
  refine ⟨q, a, q', a', t, hcompletes, kaddr, kcs, kload, kbuf0.trans hbuf0, kbuf1.trans hbuf1, kcomb, kcfgtmp,
    fun hrules => ?_⟩
  rw [kchips hrules]
  exact hsel.thenRead hchips

/-- A command that selected an output chip and read its ports, whatever it answers. -/
theorem answers_of_portsRead {i : Instr} {m : Op Value} {b : Bank} {s u x : State} {r : Res Value} {ev : List Event}
    (hexec : exec i s = runCommand i m s) (hsel : Selected .dout b (s.begin i) u) (hread : PortsRead ev u x)
    (hrun : m (s.begin i) = (r, x)) :
    ∃ t, exec i s = .next t ∧ t.rsp = some (rspWord r) ∧
      t.trace = s.trace ++ (selectTrace (chipAddr .dout b) ++ ev) ∧ OutputChipServed b s t ∧
      (ChipsFollowRules s → OutputChipRead b s t) := by
  obtain ⟨hlog, -, hserved⟩ := hsel.thenSent hread.sent hread.cfgtmp
  obtain ⟨t, hnext, hrsp, klog, hworking, klines, kchips⟩ := leaves_of_run hexec hrun
  refine ⟨t, hnext, hrsp, by simp [State.trace, klog, hlog], hserved.settled hworking klines, fun hrules => ?_⟩
  rw [OutputChipRead, kchips hrules]
  exact hsel.thenRead hread.chips

theorem readSupply_quiet {n : Nat} {s : State} (h : Quiet (n + 12) s) :
    ∃ q a q' a' t, readSupply s = (.ok (outSupply s.cfg.outSupply (levelRead s.cfg a) (levelRead s.cfg a')), t) ∧
      Quiet n t ∧ PortsRead (regReadTrace 0x34 q a ++ regReadTrace 0x35 q' a') s t := by
  obtain ⟨q, a, q', a', t, hrun, hq, hread, -⟩ := readTwo_quiet (p := 20) (p' := 21) (by decide) (by decide) h
  refine ⟨q, a, q', a', t, ?_, hq, hread⟩
  rw [readSupply, andThen_ok hrun, andThen_readCfg, hread.sent.world.cfg]
  rfl

/-- The register byte of a state port (R73, R164). -/
theorem portReg_statePort {k : Nat} (hk : k ≤ 8) : portReg (statePort k) = BitVec.ofNat 8 (0x20 + (k + 11)) := by
  interval_cases k <;> rfl

/-- Settles O33: what is read after the selection and the supply depends on the supply. -/
theorem outputStateNeedsASupply : Obligations.OutputStateNeedsASupply := by
  intro l b k s hlo hhi hl hq
  have hport := toNat_statePort hhi
  obtain ⟨u, hselect, hqu, hsel⟩ := opSelect_quiet (n := 18) (s := s.begin (.getOutputState l)) .dout b hq
  obtain ⟨q, a, q', a', x, hsupply, hqx, hread⟩ := readSupply_quiet (n := 6) hqu
  have hcfg : u.cfg = s.cfg := hsel.world.cfg
  have hcfg' : x.cfg = s.cfg := hread.sent.world.cfg.trans hcfg
  rw [hcfg] at hsupply
  obtain ⟨sup, hsup⟩ : ∃ sup, outSupply s.cfg.outSupply (levelRead s.cfg a) (levelRead s.cfg a') = sup := ⟨_, rfl⟩
  rw [hsup] at hsupply
  have hstart : opGetOutputState l (s.begin (.getOutputState l)) = andThen (require (sup ≠ .unpowered) .illegalOutput)
      (fun _ => andThen (opReadPort (statePort k)) fun y => ret (lineOfLevel y)) x := by
    rw [opGetOutputState, locate_logical _ hlo hhi hl, andThen_ret, andThen_ok hselect, andThen_ok hsupply]
  by_cases hpower : sup = .unpowered
  case pos =>
    rw [decide_eq_false (not_not.2 hpower), require_false, andThen_raise] at hstart
    obtain ⟨t, hexec, hrsp, htrace, ⟨haddr, hcs, hload, hcomb, hcfgtmp⟩, hchips⟩ := answers_of_portsRead
      (m := andThen (opGetOutputState l) fun v => ret (.line v)) rfl hsel hread (andThen_err hstart)
    refine ⟨q, a, q', a', t, hexec, haddr, hcs, hload, hcomb, hcfgtmp, hchips, fun _ => ⟨hrsp, ?_⟩,
      fun hne => absurd (hsup.trans hpower) hne⟩
    rw [htrace, List.append_assoc]
  case neg =>
    obtain ⟨q'', a'', y, hstate, -, hread', -⟩ :=
      opReadPort_quiet (n := 0) (p := statePort k) (by omega) (by omega) hqx
    rw [decide_eq_true hpower, require_true, andThen_ret, andThen_ok hstate, hcfg'] at hstart
    rw [portReg_statePort hhi] at hread'
    obtain ⟨t, hexec, hrsp, htrace, ⟨haddr, hcs, hload, hcomb, hcfgtmp⟩, hchips⟩ := answers_of_portsRead
      (m := andThen (opGetOutputState l) fun v => ret (.line v)) rfl hsel (hread.trans hread') (andThen_ok hstart)
    refine ⟨q, a, q', a', t, hexec, haddr, hcs, hload, hcomb, hcfgtmp, hchips,
      fun heq => absurd (hsup.symm.trans heq) hpower, fun _ => ⟨q'', a'', hrsp, ?_⟩⟩
    rw [htrace, List.append_assoc, List.append_assoc, List.append_assoc]

/-! ### The queries of an input chip (R186 to R188) -/

/-- The three input queries: the bit they take of the combined word, and the value they make of it. -/
abbrev InputQuery (i : Instr) (n : Nat) (v : Bool → Value) (b : Bank) : Prop :=
  (∃ (l : BitVec 8) (k : Nat), 1 ≤ k ∧ k ≤ 8 ∧ l.toNat = (bankOrdinal b - 1) * 8 + k ∧ i = .getInput l ∧ n = k - 1 ∧
      ∀ x, v x = .level (if x then .high else .low)) ∨
    (i = .getInputSupply b ∧ n = 9 ∧ ∀ x, v x = .supply (if x then .powered else .unpowered)) ∨
    (i = .getInputThermal b ∧ n = 8 ∧ ∀ x, v x = .thermal (if x then .normal else .hot))

/-- A bit read of an index in range is a frame read and a bit of its word (R146). -/
theorem opReadBit_eq {k : Byte} (hk : k.toNat ≤ 9) :
    opReadBit k = andThen readFrame fun c => ret (c.getLsbD k.toNat) := by
  rw [opReadBit, Config.indexMax, decide_eq_true hk, require_true, andThen_ret]

/-- Each is a selection, a frame read and the decoding of one bit. -/
theorem InputQuery.exec_eq {i : Instr} {n : Nat} {v : Bool → Value} {b : Bank} (h : InputQuery i n v b) (s : State) :
    exec i s =
      runCommand i (andThen (opSelect .din b) fun _ => andThen readFrame fun c => ret (v (c.getLsbD n))) s := by
  rcases h with ⟨l, k, hlo, hhi, hl, rfl, rfl, hv⟩ | ⟨rfl, rfl, hv⟩ | ⟨rfl, rfl, hv⟩ <;> simp only [hv]
  · have hindex := toNat_inputIndex hhi
    have hle : (inputIndex k).toNat ≤ 9 := by omega
    rw [exec, execGetInput, opGetInput, locate_logical _ hlo hhi hl, andThen_ret, opReadBit_eq hle, hindex]
    simp only [andThen_assoc, andThen_ret]
    rfl
  · rw [exec, execGetInputSupply, opGetInputSupply, opReadBit_eq (by decide)]
    simp only [andThen_assoc, andThen_ret]
    rfl
  · rw [exec, execGetInputThermal, opGetInputThermal, opReadBit_eq (by decide)]
    simp only [andThen_assoc, andThen_ret]
    rfl

/-- None of them reaches a port expander (R47). -/
theorem InputQuery.readsInput {i : Instr} {n : Nat} {v : Bool → Value} {b : Bank} (h : InputQuery i n v b) :
    readsInput i = true := by
  rcases h with ⟨_, _, -, -, -, rfl, -⟩ | ⟨rfl, -⟩ | ⟨rfl, -⟩ <;> rfl

/-- What is made of a frame's word is made of an accepted word only. -/
theorem andThen_readFrame {α : Type} {cfg : Params} {c : Word} {s u : State} (f : Word → α)
    (h : readFrame s = (validated cfg c, u)) :
    andThen readFrame (fun c => ret (f c)) s = (if wordAccepted cfg c then .ok (f c) else .err .diParity, u) := by
  cases hword : wordAccepted cfg c with
  | true =>
    rw [validated_of_accepted hword] at h
    exact andThen_ok h
  | false =>
    rw [validated_of_rejected hword] at h
    exact andThen_err h

/-- Settles O35: the selection, then the frame read, whose checked word gives the bit. -/
theorem inputQueriesDecodeOneBit : Obligations.InputQueriesDecodeOneBit := by
  intro i n v b s hi hq
  replace hi : InputQuery i n v b := hi
  obtain ⟨u, hselect, hqu, hsel⟩ := opSelect_quiet (n := 5) (s := s.begin i) .din b hq
  obtain ⟨-, -, -, hcfgtmp⟩ := hsel.working
  obtain ⟨r0, r1, x, hread, hlog, hbuf0, hbuf1, hcomb, hcfgtmpx, hlines, -⟩ := readFrame_quiet hqu
  have hcfg : u.cfg = s.cfg := hsel.world.cfg
  rw [hcfg] at hread
  obtain ⟨t, hexec, hrsp, klog, ⟨kbuf0, kbuf1, kcomb, kcfgtmp⟩, klines, -⟩ := leaves_of_run (hi.exec_eq s)
    ((andThen_ok hselect).trans (andThen_readFrame (fun c => v (c.getLsbD n)) hread))
  rw [hlines] at klines
  refine ⟨r0, r1, t, hexec, by simp [State.trace, klog, hlog, hsel.log], ?address, by simp [LinesIdle, klines],
    kbuf0.trans hbuf0, kbuf1.trans hbuf1, kcomb.trans hcomb, kcfgtmp.trans (hcfgtmpx.trans hcfgtmp),
    fun hacc => ?accepted, fun hrej => ?rejected, fun hrules => ?chips⟩
  case address =>
    rw [Addresses, klines]
    exact hsel.addresses
  case accepted => rw [hrsp, if_pos hacc]
  case rejected =>
    rw [hrsp, if_neg (by simp [hrej])]
    rfl
  case chips =>
    obtain ⟨m, hrun, hm⟩ := readsInput_keeps_expanders hi.readsInput s.chips
    exact exec_keeps_chips (C := SameExpanders s.chips) (hrun s) hm hrules ⟨rfl, rfl⟩ hexec

end Sys2Proof.Machine
end

section
/-! SUPPORT. The statements of the family facade about isolation: `SET_OUTPUT` changes one register (O56), `INIT` those
it configures (O57), whatever the environment does. -/

namespace Sys2Proof.Machine

/-! ### Operations that write registers of a set only (R62, R121) -/

/-- The actions that drive the lines of `D` and, of the registers, write and lose those of `R` only: an exchange that
writes names one of them. -/
def Actions.storing (D : Line → Prop) (R : RegAddr → Prop) : Actions :=
  ⟨D, fun t0 _ => (t0.getLsbD 7 = true ∨ t0 = 0x00) ∨ R (regOf t0), fun r => R (regOf r)⟩

section Sends

variable {D : Line → Prop} {R : RegAddr → Prop}

theorem storing_sends_readRequest (r : Byte) : (Actions.storing D R).sends (readRequest r) 0x00 :=
  .inl (.inl (readRequest_isRequest r))

theorem storing_sends_nop : (Actions.storing D R).sends 0x00 0x00 := .inl (.inr rfl)

theorem storing_sends_write {r : Byte} (v : Byte) (h : R (regOf r)) : (Actions.storing D R).sends r v := .inr h

end Sends

/-- The select lines address no port expander of a bank outside `B`. -/
abbrev AddressesIn (B : Bank → Prop) (l : Lines) : Prop := ∀ b, l.address = chipAddr .dout b → B b

/-- Every byte of memory but those of the registers `R` in the chips of the banks `B` reads as in `c`. -/
def StoredIn (B : Bank → Prop) (R : RegAddr → Prop) (c d : Chips) : Prop :=
  ∀ a, (∀ b r, B b → R r → a ≠ regAddr b r) → memRead d.regs a = memRead c.regs a

section Storing

variable {B : Bank → Prop} {R : RegAddr → Prop} {c : Chips} {s t : State} {t0 t1 r : Byte}

theorem StoredIn.of_regs {d e : Chips} (h : StoredIn B R c d) (hregs : e.regs = d.regs) : StoredIn B R c e := by
  simpa only [StoredIn, hregs] using h

/-- A change of at most one register of the set, of a chip of the set. -/
theorem StoredIn.of_memExcept {b : Bank} {q : RegAddr} (h : StoredIn B R c s.chips)
    (hmem : SameMemExcept (regAddr b q) s t) (hb : B b) (hq : R q) : StoredIn B R c t.chips :=
  fun a ha => (hmem a (ha b q hb hq)).trans (h a ha)

/-- An exchange stores nothing, or the register it names in the addressed chip. -/
theorem StoredIn.chipsTake (h : StoredIn B R c s.chips) (hB : AddressesIn B s.lines)
    (hsend : (t0.getLsbD 7 = true ∨ t0 = 0x00) ∨ R (regOf t0)) : StoredIn B R c (chipsTake t0 t1 s).chips := by
  rcases hsend with hread | hstore
  · exact h.of_regs (chipsTake_regs t1 s hread)
  · by_cases hun : ∀ b, ¬Addresses s .dout b
    · rwa [chipsTake_unaddressed t0 t1 hun]
    · obtain ⟨b, hb⟩ := not_forall_not.1 hun
      exact h.of_memExcept (chipsTake_mem t0 t1 hb) (hB b hb) hstore

theorem StoredIn.loseRegister (h : StoredIn B R c s.chips) (hB : AddressesIn B s.lines) (hr : R (regOf r)) :
    StoredIn B R c (loseRegister r s).chips := by
  by_cases hun : ∀ b, ¬Addresses s .dout b
  · rwa [loseRegister_unaddressed r hun]
  · obtain ⟨b, hb⟩ := not_forall_not.1 hun
    exact h.of_memExcept (loseRegister_mem r hb) (hB b hb) hr

end Storing

/-- While the lines that are driven keep the address among the banks `B`, only the registers `R` of those banks' chips
are written, whatever the environment does. -/
theorem keptWithin_storing {D : Line → Prop} {B : Bank → Prop} (R : RegAddr → Prop) (c : Chips)
    (hD : ∀ {x}, D x → ∀ (l : Lines) (v : Bool), AddressesIn B l → AddressesIn B (l.set x v)) :
    KeptWithin (.storing D R) fun s => AddressesIn B s.lines ∧ StoredIn B R c s.chips where
  drive {x} hx v s := by
    rintro ⟨hB, hs⟩
    have hkeep := drive_keeps_expanders x v s.chips s ⟨rfl, rfl⟩
    rcases drive_cases x v s with ⟨t, ht, ⟨-, hlines, -⟩, -⟩ | ⟨d, t, ht, ⟨-, hlines, -⟩, -⟩ <;> rw [ht] at hkeep ⊢ <;>
      exact ⟨hlines ▸ hD hx s.lines _ hB, hs.of_regs hkeep.1⟩
  settle _ h := h
  xfer {t0 t1} hsend s := by
    rintro ⟨hB, hs⟩
    obtain ⟨⟨-, hsame, -⟩, hchoice⟩ := xferChoice_same t0 t1 s
    have hbefore (e : Event) : StoredIn B R c ((xferChoice t0 t1 s).2.emit e).chips := hs.of_regs (congrArg _ hchoice)
    rcases xfer_cases t0 t1 s with ⟨r0, r1, t, ht, ⟨-, hlines, -⟩, rfl, -⟩ | ⟨d0, d1, t, ht, ⟨-, hlines, -⟩, rfl, -⟩ <;>
      rw [ht] <;> refine ⟨hlines ▸ hB, ?_⟩
    · exact (hbefore _).chipsTake (by rwa [emit_lines, hsame]) hsend
    · exact (hbefore _).of_regs (chipsMiss_keeps t0 _).1
  writeComb _ _ h := h
  writeCfgtmp _ _ h := h
  loseRegister {r} hr s h := ⟨by rw [(loseRegister_same r s).1.2.1]; exact h.1, h.2.loseRegister h.1 hr⟩

/-- A selection of an output chip stores nothing, and when it succeeds addresses that chip alone. -/
theorem opSelect_storedIn (b : Bank) (R : RegAddr → Prop) (c : Chips) :
    Triple (fun s => StoredIn (· = b) R c s.chips) (opSelect .dout b)
      (fun _ s => AddressesIn (· = b) s.lines ∧ StoredIn (· = b) R c s.chips)
      (fun _ s => StoredIn (· = b) R c s.chips) := by
  intro s hs
  refine triple_weaken (opSelect_keeps_expanders .dout b s.chips) (P' := (· = s)) (fun u hu => hu ▸ ⟨rfl, rfl⟩)
    (fun _ t ⟨haddr, hregs, _⟩ => ⟨fun b' hb' => ?_, hs.of_regs hregs⟩) (fun _ t ⟨hregs, _⟩ => hs.of_regs hregs) s rfl
  simpa using congrArg chipAt (hb'.symm.trans haddr)

/-! ### The isolation of an output (R180, R182) -/

/-- With its chip selected, a write of the enable port `k` stores in that port's register of that chip only. -/
theorem writeEnablePort_storedIn (l : Level) (b : Bank) {k : Nat} (hk : k ≤ 8) (c : Chips) :
    Keeps (fun s => AddressesIn (· = b) s.lines ∧ StoredIn (· = b) (· = BitVec.ofNat 7 (0x20 + (k + 3))) c s.chips)
      (opWritePort l (enablePort k)) :=
  (keptWithin_storing (D := (· = .cs)) _ c fun hx _ _ hB => hx ▸ hB).keeps
    (Within.opWritePort rfl l fun v => storing_sends_write v (portReg_enablePort hk).2)

/-- The translation and the selection store nothing, and the write of the enable port in its register. -/
theorem opSetOutput_storedIn (v : Level) {l : BitVec 8} {b : Bank} {k : Nat} (hlo : 1 ≤ k) (hhi : k ≤ 8)
    (hl : l.toNat = (bankOrdinal b - 1) * 8 + k) (c : Chips) :
    Keeps (fun s => StoredIn (· = b) (· = BitVec.ofNat 7 (0x20 + (k + 3))) c s.chips) (opSetOutput v l) := by
  rw [opSetOutput, locate_logical _ hlo hhi hl, andThen_ret]
  exact triple_andThen (opSelect_storedIn b _ c) fun _ =>
    triple_weaken (writeEnablePort_storedIn v b hhi c) (fun _ h => h) (fun _ _ h => h.2) fun _ _ h => h.2

/-- Settles O56: its operation stores in the one register. -/
theorem setOutputTouchesOneRegister : Obligations.SetOutputTouchesOneRegister := by
  intro v l b k s t hlo hhi hl hrules hexec a ha
  have hkeeps : Keeps (fun s' => StoredIn (· = b) (· = BitVec.ofNat 7 (0x20 + (k + 3))) s.chips s'.chips)
      (asUnit (opSetOutput v l)) :=
    triple_andThen (opSetOutput_storedIn v hlo hhi hl s.chips) fun _ => triple_ret fun _ h => h
  refine exec_keeps_chips rfl hkeeps hrules (fun _ _ => rfl) hexec a ?_
  rintro _ _ rfl rfl
  exact ha

/-! ### The isolation of initialisation (R181) -/

namespace Within

section Storing

variable {R : RegAddr → Prop} {p : Byte} (hcfg : R (regOf (cfgReg p)))
include hcfg

/-- A field update stores in the configuration register of its port (R121). -/
theorem storing_opCfgBits (bits : BitVec 2) : Within (.storing (fun _ => True) R) (Machine.opCfgBits bits p) :=
  (checkPort p).andThen fun _ =>
    (regRead trivial (storing_sends_readRequest _) storing_sends_nop).andThen fun _ =>
      (writeCfgtmp _).andThen fun _ => (writeCfgtmp _).andThen fun _ =>
        cfgWrite trivial (storing_sends_write _ hcfg) hcfg

/-- An output configured stores in the port's register too (R122). -/
theorem storing_opCfgOutput (l : Level) (hport : R (regOf (portReg p))) :
    Within (.storing (fun _ => True) R) (Machine.opCfgOutput l p) :=
  (opWritePort trivial l fun v => storing_sends_write v hport).andThen fun _ => storing_opCfgBits hcfg fieldOutput

end Storing

/-- `INIT` stores in the registers of `initWrites` only. -/
theorem storing_opInit : Within (.storing (fun _ => True) (initWrites · = true)) Machine.opInit := by
  have houtputs : ∀ p ∈ enablePorts, initWrites (regOf (cfgReg p)) = true ∧ initWrites (regOf (portReg p)) = true := by
    decide
  have hfields (bits : BitVec 2) {ps : List Byte} (hps : ∀ p ∈ ps, initWrites (regOf (cfgReg p)) = true) :
      Within (.storing (fun _ => True) (initWrites · = true)) (Machine.forEach ps (Machine.opCfgBits bits)) :=
    forEach fun p hp => storing_opCfgBits (hps p hp) bits
  exact forEach fun b _ => (opSelect (fun _ => trivial) .dout b).andThen fun _ =>
    (forEach fun p hp => storing_opCfgOutput (houtputs p hp).1 .hiz (houtputs p hp).2).andThen fun _ =>
    (hfields (fieldInput true) (ps := statusPorts) (by decide)).andThen fun _ =>
    (hfields (fieldInput false) (ps := supplyPorts) (by decide)).andThen fun _ =>
    (hfields (fieldInput true) (ps := thermalPorts) (by decide)).andThen fun _ =>
    readCfg.andThen fun _ => regWrite trivial (storing_sends_write _ rfl)

end Within

/-- Settles O57: its operation stores in those registers only, of whichever chip. -/
theorem initTouchesOnlyItsRegisters : Obligations.InitTouchesOnlyItsRegisters := by
  intro s t hrules hexec b r hr
  have hinit : Keeps (fun s' => AddressesIn (fun _ => True) s'.lines ∧
      StoredIn (fun _ => True) (initWrites · = true) s.chips s'.chips) (asUnit opInit) :=
    (keptWithin_storing _ s.chips fun _ _ _ _ _ _ => trivial).keeps Within.storing_opInit.asUnit
  have hkeeps : Keeps (fun s' => StoredIn (fun _ => True) (initWrites · = true) s.chips s'.chips) (asUnit opInit) :=
    triple_weaken hinit (fun _ h => ⟨fun _ _ => trivial, h⟩) (fun _ _ h => h.2) fun _ _ h => h.2
  refine exec_keeps_chips rfl hkeeps hrules (fun _ _ => rfl) hexec (regAddr b r) fun b' q _ hq haddr => ?_
  rw [(regAddr_inj haddr).2, hq] at hr
  cases hr

end Sys2Proof.Machine
end

section
/-! SUPPORT. The statement of the family facade about the run of `INIT` when the environment fails nothing (O37): the
events of the six banks in their order, and how many they are. -/

namespace Sys2Proof.Machine

/-! ### Operations one after another, undisturbed (R11) -/

/-- From `s` to `t` exactly the events `ev` were appended, the lines changed by `g`, and `COMB` and the world are as
before. -/
structure Logged (g : Lines → Lines) (ev : List Event) (s t : State) : Prop where
  log : t.log = ev.reverse ++ s.log
  lines : t.lines = g s.lines
  comb : t.comb = s.comb
  world : SameWorld s t

theorem Logged.refl (s : State) : Logged id [] s s := ⟨rfl, rfl, rfl, rfl, rfl, rfl, rfl, rfl⟩

theorem Logged.trans {g h : Lines → Lines} {ev ev' : List Event} {s t u : State} (hst : Logged g ev s t)
    (htu : Logged h ev' t u) : Logged (h ∘ g) (ev ++ ev') s u where
  log := by rw [htu.log, hst.log, List.reverse_append, List.append_assoc]
  lines := by rw [htu.lines, hst.lines, Function.comp]
  comb := htu.comb.trans hst.comb
  world := hst.world.trans htu.world

/-- What frames do to the lines: `CS` ends high (R111). -/
def raiseCs (l : Lines) : Lines := { l with cs := true }

theorem raiseCs_address (l : Lines) : (raiseCs l).address = l.address := rfl

theorem SentFrames.logged {ev : List Event} {s t : State} (h : SentFrames ev s t) : Logged raiseCs ev s t :=
  ⟨h.log, h.lines, h.comb, h.world⟩

/-- When the environment fails none of its `n` choices, the operation succeeds, changes the lines by `g` and has events
of which `P` holds. -/
def Runs (n : Nat) (m : Op Unit) (g : Lines → Lines) (P : Params → List Event → Prop) : Prop :=
  ∀ (k : Nat) (s : State), Quiet (k + n) s →
    ∃ ev t, m s = (.ok (), t) ∧ Quiet k t ∧ Logged g ev s t ∧ P s.cfg ev

theorem Runs.weaken {n : Nat} {m : Op Unit} {g : Lines → Lines} {P P' : Params → List Event → Prop}
    (h : Runs n m g P) (hP : ∀ cfg ev, P cfg ev → P' cfg ev) : Runs n m g P' := fun k s hq =>
  let ⟨ev, t, hrun, hqt, hlogged, hev⟩ := h k s hq
  ⟨ev, t, hrun, hqt, hlogged, hP _ _ hev⟩

/-- One operation after another: the events of the one, then those of the other. -/
theorem Runs.andThen {n n' : Nat} {m m' : Op Unit} {g g' : Lines → Lines} {P P' : Params → List Event → Prop}
    (h : Runs n m g P) (h' : Runs n' m' g' P') :
    Runs (n + n') (Machine.andThen m fun _ => m') (g' ∘ g)
      fun cfg ev => ∃ first rest, ev = first ++ rest ∧ P cfg first ∧ P' cfg rest := by
  intro k s hq
  rw [Nat.add_comm n, ← Nat.add_assoc] at hq
  obtain ⟨first, t, hrun, hqt, hlogged, hfirst⟩ := h (k + n') s hq
  obtain ⟨rest, u, hrun', hqu, hlogged', hrest⟩ := h' k t hqt
  rw [hlogged.world.cfg] at hrest
  exact ⟨first ++ rest, u, by rw [andThen_ok hrun, hrun'], hqu, hlogged.trans hlogged', first, rest, rfl, hfirst, hrest⟩

/-- A loop has the events of its bodies, in the order of its list. -/
theorem Runs.forEach {α : Type} {n : Nat} {f : α → Op Unit} {g : α → Lines → Lines}
    {P : Params → α → List Event → Prop} :
    ∀ {xs : List α}, (∀ x ∈ xs, Runs n (f x) (g x) (P · x)) →
      Runs (xs.length * n) (Machine.forEach xs f) (fun l => xs.foldl (fun l x => g x l) l)
        fun cfg => EachTrace (P cfg) xs
  | [], _ => fun k s hq => ⟨[], s, rfl, by simpa using hq, .refl s, rfl⟩
  | x :: xs, h => by
    rw [List.length_cons, Nat.succ_mul, Nat.add_comm]
    exact (h x (by simp)).andThen (Runs.forEach fun y hy => h y (by simp [hy]))

/-! ### The operations of `INIT`, undisturbed (R102, R112, R121, R122, R124) -/

theorem runs_opSelect (d : Direction) (b : Bank) :
    Runs 4 (opSelect d b) (·.withAddress (chipAddr d b)) fun _ ev => ev = selectTrace (chipAddr d b) := by
  intro k s hq
  obtain ⟨t, hrun, hqt, hsel⟩ := opSelect_quiet d b hq
  obtain ⟨-, -, hcomb, -⟩ := hsel.working
  exact ⟨_, t, hrun, hqt, ⟨hsel.log, hsel.lines, hcomb, hsel.world⟩, rfl⟩

theorem runs_regWrite (r v : Byte) :
    Runs 3 (regWrite r v) raiseCs fun _ ev => ∃ a : Byte × Byte, ev = frameTrace r v a.1 a.2 := by
  intro k s hq
  obtain ⟨r0, r1, t, hrun, hqt, hlog, hlines, -, -, hcomb, -, ⟨hworld, -⟩, -⟩ := regWrite_quiet r v hq
  exact ⟨_, t, hrun, hqt, ⟨hlog, hlines, hcomb, hworld⟩, (r0, r1), rfl⟩

/-- The wake-up under the parameters (R124). -/
theorem runs_wakeup :
    Runs 3 (andThen readCfg fun cfg => opWakeup cfg.initEnableIrq) raiseCs fun cfg ev =>
      ∃ w : Byte × Byte, ev = frameTrace 0x04 (if cfg.initEnableIrq then 0x81 else 0x01) w.1 w.2 :=
  fun k s => runs_regWrite Config.peGcfgReg (wakeByte s.cfg.initEnableIrq) k s

section Ports

variable {p : Byte} (hlo : 4 ≤ p.toNat) (hhi : p.toNat ≤ 31)
include hlo hhi

theorem runs_opCfgBits (bits : BitVec 2) : Runs 9 (opCfgBits bits p) raiseCs (FieldTrace · bits p) := by
  intro k s hq
  obtain ⟨q, a, u, hread, hqu, hsent, -⟩ := regRead_sends (n := k + 3) (cfgReg p) hq
  obtain ⟨v, hv⟩ : ∃ v, v = updateField (respByte s.cfg a) (cfgOffset p) bits := ⟨_, rfl⟩
  obtain ⟨_, t, hwrite, hqt, ⟨hlog, hlines, hcomb, hworld⟩, r, rfl⟩ := runs_regWrite (cfgReg p) v k
    ((u.setCfgtmp (respByte s.cfg a)).setCfgtmp v) (quiet_congr rfl rfl hqu)
  have hsent' : SentFrames (frameTrace (cfgReg p) v r.1 r.2) u t := ⟨hlog, hlines, hcomb, hworld⟩
  refine ⟨_, t, ?run, hqt, (hsent.trans hsent').logged, q, a, r, ?trace⟩
  case run =>
    rw [opCfgBits, checkPort_in hlo hhi, andThen_ok hread, andThen_writeCfgtmp, andThen_writeCfgtmp, ← hv]
    exact onError_ok hwrite
  case trace =>
    rw [regReadTrace, (readRequest_of_port hlo hhi).2, hv]
    rfl

theorem runs_opCfgOutput : Runs 12 (opCfgOutput .hiz p) raiseCs (HizOutputTrace · p) := by
  have hlevel : Runs 3 (opWritePort .hiz p) raiseCs fun _ ev =>
      ∃ a : Byte × Byte, ev = frameTrace (0x20 + p) 0x00 a.1 a.2 := by
    rw [opWritePort_eq_regWrite hlo hhi (by decide)]
    exact runs_regWrite (portReg p) 0x00
  refine (hlevel.andThen (runs_opCfgBits hlo hhi fieldOutput)).weaken ?_
  rintro cfg _ ⟨_, rest, rfl, ⟨w, rfl⟩, hrest⟩
  exact ⟨w, rest, rfl, hrest⟩

end Ports

theorem runs_initBank (b : Bank) :
    Runs 211 (initBank b) (fun l => raiseCs (l.withAddress (chipAddr .dout b))) (InitBankTrace · b) := by
  have houtputs : Runs (enablePorts.length * 12) (forEach enablePorts (opCfgOutput .hiz))
      (fun l => enablePorts.foldl (fun l _ => raiseCs l) l)
      fun cfg => EachTrace (HizOutputTrace cfg) enablePorts := by
    refine Runs.forEach fun p hp => ?_
    have hrange : 4 ≤ p.toNat ∧ p.toNat ≤ 31 := by
      revert p
      decide
    exact runs_opCfgOutput hrange.1 hrange.2
  have hfields (u : Bool) {ps : List Byte} (hps : ∀ p ∈ ps, 4 ≤ p.toNat ∧ p.toNat ≤ 31) :
      Runs (ps.length * 9) (forEach ps (opCfgInput u)) (fun l => ps.foldl (fun l _ => raiseCs l) l)
        fun cfg => EachTrace (FieldTrace cfg (fieldInput u)) ps :=
    Runs.forEach fun p hp => runs_opCfgBits (hps p hp).1 (hps p hp).2 (fieldInput u)
  have hbank := (runs_opSelect .dout b).andThen (houtputs.andThen
    ((hfields true (ps := statusPorts) (by decide)).andThen ((hfields false (ps := supplyPorts) (by decide)).andThen
      ((hfields true (ps := thermalPorts) (by decide)).andThen runs_wakeup))))
  refine hbank.weaken ?_
  rintro cfg _ ⟨_, _, rfl, rfl, outputs, _, rfl, hout, status, _, rfl, hstatus, supply, _, rfl, hsupply,
    thermal, _, rfl, hthermal, w, rfl⟩
  exact ⟨outputs, status, supply, thermal, w, by simp only [List.append_assoc], hout, hstatus, hsupply, hthermal⟩

/-- The six banks (R181): 1266 choices, and at the end bank 6's output chip on the select lines and `CS` high. -/
theorem runs_opInit :
    Runs 1266 opInit (fun l => raiseCs (l.withAddress (chipAddr .dout .b6))) fun cfg =>
      EachTrace (InitBankTrace cfg) allBanks :=
  Runs.forEach (xs := allBanks) fun b _ => runs_initBank b

/-! ### How many events they are -/

/-- A sequence of `n` events, `x` of them exchanges. -/
def Counts (n x : Nat) (ev : List Event) : Prop := ev.length = n ∧ (ev.filter Event.isExchange).length = x

theorem Counts.append {n x n' x' : Nat} {ev ev' : List Event} (h : Counts n x ev) (h' : Counts n' x' ev') :
    Counts (n + n') (x + x') (ev ++ ev') :=
  ⟨by rw [List.length_append, h.1, h'.1], by rw [List.filter_append, List.length_append, h.2, h'.2]⟩

theorem counts_selectTrace (a : ChipAddr) : Counts 5 0 (selectTrace a) := ⟨rfl, rfl⟩

theorem counts_frameTrace (t0 t1 r0 r1 : Byte) : Counts 6 1 (frameTrace t0 t1 r0 r1) := ⟨rfl, rfl⟩

theorem EachTrace.counts {α : Type} {P : α → List Event → Prop} {n x : Nat} (hP : ∀ a ev, P a ev → Counts n x ev) :
    ∀ {xs : List α} {ev : List Event}, EachTrace P xs ev → Counts (xs.length * n) (xs.length * x) ev
  | [], _, h => by
    rw [h, List.length_nil, Nat.zero_mul, Nat.zero_mul]
    exact ⟨rfl, rfl⟩
  | a :: xs, _, h => by
    obtain ⟨first, rest, rfl, hfirst, hrest⟩ := h
    rw [List.length_cons, Nat.succ_mul, Nat.succ_mul, Nat.add_comm _ n, Nat.add_comm _ x]
    exact (hP a first hfirst).append (EachTrace.counts hP hrest)

theorem FieldTrace.counts {cfg : Params} {bits : BitVec 2} {p : Byte} {ev : List Event} (h : FieldTrace cfg bits p ev) :
    Counts 18 3 ev := by
  obtain ⟨q, a, r, rfl⟩ := h
  exact ((counts_frameTrace _ _ _ _).append (counts_frameTrace _ _ _ _)).append (counts_frameTrace _ _ _ _)

theorem HizOutputTrace.counts {cfg : Params} {p : Byte} {ev : List Event} (h : HizOutputTrace cfg p ev) :
    Counts 24 4 ev := by
  obtain ⟨w, rest, rfl, hrest⟩ := h
  exact (counts_frameTrace _ _ _ _).append hrest.counts

theorem InitBankTrace.counts {cfg : Params} {b : Bank} {ev : List Event} (h : InitBankTrace cfg b ev) :
    Counts 419 69 ev := by
  obtain ⟨outputs, status, supply, thermal, w, rfl, hout, hstatus, hsupply, hthermal⟩ := h
  have hfields {bits : BitVec 2} {ps : List Byte} {ev : List Event} (h : EachTrace (FieldTrace cfg bits) ps ev) :=
    EachTrace.counts (fun _ _ h => h.counts) h
  have houtputs := EachTrace.counts (fun _ _ h => HizOutputTrace.counts h) hout
  exact (((((counts_selectTrace _).append houtputs).append (hfields hstatus)).append (hfields hsupply)).append
    (hfields hthermal)).append (counts_frameTrace _ _ _ _)

/-- Settles O37: the run of the six banks, completed as a command. -/
theorem initRunsAllSixBanks : Obligations.InitRunsAllSixBanks := by
  intro s hq
  obtain ⟨ev, u, hrun, -, ⟨hlog, hlines, hcomb, hworld⟩, hev⟩ := runs_opInit 0 (s.begin .init) hq
  obtain ⟨hlength, hexchanges⟩ := EachTrace.counts (fun _ _ h => InitBankTrace.counts h) hev
  obtain ⟨t, hcompletes, ⟨-, -, kcomb, -⟩, klines, -⟩ :=
    completes_of_run (m := asUnit opInit) rfl (andThen_ok hrun) hlog hworld
  replace hlines : t.lines = raiseCs (s.lines.withAddress (chipAddr .dout .b6)) := klines.trans hlines
  refine ⟨ev, t, hcompletes, hev, hlength, hexchanges, ?_, ?_, ?_, kcomb.trans hcomb⟩
  · rw [Addresses, hlines, raiseCs_address, address_withAddress]
  · rw [hlines]
    rfl
  · rw [hlines]
    rfl

end Sys2Proof.Machine
end

section
/-! SUPPORT. The statements of the family exceptions: how a run that fails ends (O45), that `NotPresent` is never
answered (O46), and what `Low` (O41), `IllegalInput` (O43) and `IllegalOutput` (O44) are answered for. -/

namespace Sys2Proof.Machine

/-! ### The response word of an error (R85, R86) -/

/-- The error of a status code (R86). -/
def errOfCode? (c : BitVec 4) : Option ErrKind :=
  match c.toNat with
  | 1 => some .illegalInput
  | 2 => some .illegalOutput
  | 3 => some .unsupportedLevel
  | 4 => some .diParity
  | 5 => some .notPresent
  | 6 => some (.transport .busExchange)
  | 7 => some (.transport .pinDrive)
  | _ => none

theorem errOfCode?_errCode (e : ErrKind) : errOfCode? (errCode e) = some e := by
  cases e with
  | transport c => cases c <;> rfl
  | illegalInput | illegalOutput | unsupportedLevel | diParity | notPresent => rfl

theorem rspStatus_err (e : ErrKind) : rspStatus (rspWord (.err e)) = errCode e := by
  obtain ⟨hstatus, -⟩ := rspFields (errCode e) 0
  exact hstatus

/-- The response word of an error is that of no other result. -/
theorem eq_err_of_rspWord {r : Res Value} {e : ErrKind} (h : rspWord r = rspWord (.err e)) : r = .err e := by
  have hstatus := congrArg rspStatus h
  rw [rspStatus_err] at hstatus
  cases r with
  | ok v =>
    rw [rspStatus_ok] at hstatus
    exact absurd hstatus.symm (errCode_ne_zero e)
  | err e' =>
    rw [rspStatus_err] at hstatus
    have hcode := congrArg errOfCode? hstatus
    rw [errOfCode?_errCode, errOfCode?_errCode] at hcode
    rw [Option.some.inj hcode]

theorem eq_err_of_rsp {t : State} {r : Res Value} {e : ErrKind} (h : t.rsp = some (rspWord r))
    (herr : t.rsp = some (rspWord (.err e))) : r = .err e := eq_err_of_rspWord (Option.some.inj (h.symm.trans herr))

/-- An error response is the error of the run of the instruction's operation. -/
theorem run_of_err {i : Instr} {m : Op Value} {s t : State} {e : ErrKind} (hrun : exec i s = runCommand i m s)
    (hexec : exec i s = .next t) (hrsp : t.rsp = some (rspWord (.err e))) :
    ∃ u, m (s.begin i) = (.err e, u) ∧ t.log = u.log := by
  obtain ⟨r, u, hm, hr, hlog⟩ := run_of_exec hrun hexec
  obtain rfl := eq_err_of_rsp hr hrsp
  exact ⟨u, hm, hlog⟩

/-- The next state's response and trace are those of a known run of the instruction's operation. -/
theorem rsp_of_run {i : Instr} {m : Op Value} {s t u : State} {r : Res Value} (hrun : exec i s = runCommand i m s)
    (hexec : exec i s = .next t) (hm : m (s.begin i) = (r, u)) : t.rsp = some (rspWord r) ∧ t.log = u.log := by
  obtain ⟨r', u', hm', hrsp, hlog⟩ := run_of_exec hrun hexec
  obtain ⟨rfl, rfl⟩ := Prod.mk.inj (hm'.symm.trans hm)
  exact ⟨hrsp, hlog⟩

/-- Settles O46: no operation built from the primitives raises `NotPresent`, and its word is that of no other result. -/
theorem notPresentIsNeverRaised : Obligations.NotPresentIsNeverRaised := by
  intro i s t hexec hrsp
  obtain ⟨m, hm, hrun⟩ := exec_fromPrimitives i
  obtain ⟨u, herr, -⟩ := run_of_err (hrun s) hexec hrsp
  have hne := hm.never_notPresent (s.begin i) trivial
  rw [herr] at hne
  exact hne rfl

/-! ### Where a run that fails ends (R125, R206, R209) -/

abbrev NoFailedExchange (ev : List Event) : Prop := ∀ t0 t1, Event.xferFail t0 t1 ∉ ev

theorem NoFailedExchange.concat {ev : List Event} {e : Event} (h : NoFailedExchange ev)
    (he : ∀ t0 t1, e ≠ .xferFail t0 t1) : NoFailedExchange (ev ++ [e]) := fun t0 t1 hmem =>
  (List.mem_append.1 hmem).elim (h t0 t1) fun hlast => he t0 t1 (List.mem_singleton.1 hlast).symm

/-- The events of a run that fails with this error: a `Transport` error's last event is the action that failed, and there
is no other failed exchange. -/
def StopsAt : ErrKind → List Event → Prop
  | .transport .busExchange, ev => ∃ ev' t0 t1, ev = ev' ++ [.xferFail t0 t1] ∧ NoFailedExchange ev'
  | .transport .pinDrive, ev => ∃ ev' x b, ev = ev' ++ [.pin x b] ∧ NoFailedExchange ev'
  | _, ev => NoFailedExchange ev

theorem stopsAt_check {e : ErrKind} {ev : List Event} (he : e.isCheck = true) (h : NoFailedExchange ev) :
    StopsAt e ev := by
  cases e with
  | transport c => cases he
  | illegalInput | illegalOutput | unsupportedLevel | diParity | notPresent => exact h

/-- A failed exchange among the events means that the exchange is the error. -/
theorem StopsAt.noFailedExchange {e : ErrKind} {ev : List Event} (h : StopsAt e ev)
    (he : e ≠ .transport .busExchange) : NoFailedExchange ev := by
  cases e with
  | transport c =>
    cases c with
    | busExchange => exact absurd rfl he
    | pinDrive =>
      obtain ⟨ev', x, b, rfl, hev'⟩ := h
      exact hev'.concat nofun
  | illegalInput | illegalOutput | unsupportedLevel | diParity | notPresent => exact h

/-- After a `Transport` error the last event is no delay. -/
theorem StopsAt.getLast?_ne_delay {c : TransportCause} {ev : List Event} (h : StopsAt (.transport c) ev) (us : Nat) :
    ev.getLast? ≠ some (.delay us) := by
  cases c with
  | busExchange =>
    obtain ⟨ev', t0, t1, rfl, -⟩ := h
    simp
  | pinDrive =>
    obtain ⟨ev', x, b, rfl, -⟩ := h
    simp

/-- To the trace `l`, newest event first, events were appended of which `P` holds. -/
def Appended (l : List Event) (P : List Event → Prop) (s : State) : Prop := ∃ ev, s.log = ev.reverse ++ l ∧ P ev

theorem Appended.sameBlock {l : List Event} {P : List Event → Prop} {s t : State} (h : Appended l P s)
    (ht : SameBlock s t) : Appended l P t := by
  obtain ⟨-, -, -, -, -, -, -, -, -, hlog, -⟩ := ht
  rwa [Appended, hlog]

theorem Appended.emit {l : List Event} {P Q : List Event → Prop} {s : State} {e : Event} (h : Appended l P s)
    (hQ : ∀ ev, P ev → Q (ev ++ [e])) : Appended l Q (s.emit e) := by
  obtain ⟨ev, hlog, hev⟩ := h
  exact ⟨ev ++ [e], by rw [emit_log, hlog, List.reverse_append]; rfl, hQ ev hev⟩

/-- An operation that succeeds has met no failed exchange, and one that fails stops as its error says. -/
theorem Within.stopsAt {A : Actions} {α : Type} {m : Op α} (hm : Within A m) (l : List Event) :
    Triple (Appended l NoFailedExchange) m (fun _ => Appended l NoFailedExchange)
      (fun e => Appended l (StopsAt e)) := by
  induction hm with
  | ret a => exact triple_ret fun _ h => h
  | raise he => exact triple_raise fun _ ⟨ev, hlog, hev⟩ => ⟨ev, hlog, stopsAt_check he hev⟩
  | andThen _ _ ihm ihk => exact triple_andThen ihm ihk
  | losing _ _ ih => exact triple_onError ih fun _ s h => h.sameBlock (loseRegister_same _ s).1
  | @drive x _ b =>
    intro s hs
    have hemit : Appended l NoFailedExchange (s.emit (.pin x b)) := hs.emit fun _ h => h.concat nofun
    have hfailed : Appended l (StopsAt (.transport .pinDrive)) (s.emit (.pin x b)) :=
      hs.emit fun ev h => ⟨ev, x, b, rfl, h⟩
    rcases drive_cases x b s with ⟨t, ht, hblock, -⟩ | ⟨d, t, ht, hblock, -⟩ <;> rw [ht]
    · exact Appended.sameBlock (s := (s.emit (.pin x b)).setLine x b) hemit hblock
    · exact Appended.sameBlock (s := (s.emit (.pin x b)).setLine x d) hfailed hblock
  | settle => exact fun _ hs => hs.emit fun _ h => h.concat nofun
  | @xfer t0 t1 _ =>
    intro s hs
    rcases xfer_cases t0 t1 s with ⟨r0, r1, t, ht, hblock, -⟩ | ⟨d0, d1, t, ht, hblock, -⟩ <;> rw [ht]
    · have hemit : Appended l NoFailedExchange (s.emit (.xfer t0 t1 r0 r1)) := hs.emit fun _ h => h.concat nofun
      exact Appended.sameBlock (s := (s.emit (.xfer t0 t1 r0 r1)).setBuf r0 r1) hemit hblock
    · have hfailed : Appended l (StopsAt (.transport .busExchange)) (s.emit (.xferFail t0 t1)) :=
        hs.emit fun ev h => ⟨ev, t0, t1, rfl, h⟩
      exact Appended.sameBlock (s := (s.emit (.xferFail t0 t1)).setBuf d0 d1) hfailed hblock
  | writeComb c => exact fun _ h => h
  | writeCfgtmp v => exact fun _ h => h
  | readCfg => exact fun _ h => h

/-- Every instruction answers some result; a failed exchange in its events is its error, and an error is where it
stopped. -/
theorem exec_stopsAt {i : Instr} {s t : State} (hexec : exec i s = .next t) :
    ∃ (r : Res Value) (ev : List Event), t.rsp = some (rspWord r) ∧ t.trace = s.trace ++ ev ∧
      (r ≠ .err (.transport .busExchange) → NoFailedExchange ev) ∧ ∀ e, r = .err e → StopsAt e ev := by
  obtain ⟨m, hm, hrun⟩ := exec_within_all i
  obtain ⟨r, u, hu, hrsp, hlog⟩ := run_of_exec (hrun s) hexec
  have hends := hm.stopsAt s.log (s.begin i) ⟨[], rfl, nofun⟩
  rw [hu] at hends
  cases r with
  | ok v =>
    obtain ⟨ev, hev, hnone⟩ := hends
    exact ⟨.ok v, ev, hrsp, by simp [State.trace, hlog, hev], fun _ => hnone, nofun⟩
  | err e =>
    obtain ⟨ev, hev, hstop⟩ := hends
    refine ⟨.err e, ev, hrsp, by simp [State.trace, hlog, hev], fun hne => hstop.noFailedExchange ?_, ?_⟩
    · rintro rfl
      exact hne rfl
    · rintro _ ⟨⟩
      exact hstop

/-- Settles O45: the response word tells the error, and the error where the run stopped. -/
theorem transportErrorsStopAtOnce : Obligations.TransportErrorsStopAtOnce := by
  intro i s t hexec
  obtain ⟨r, ev, hrsp, htrace, hnone, hstops⟩ := exec_stopsAt hexec
  have hstop {e : ErrKind} (h : t.rsp = some (rspWord (.err e))) : StopsAt e ev :=
    hstops e (eq_err_of_rsp hrsp h)
  refine ⟨ev, htrace, hstop (e := .transport .busExchange), fun hpin => ?pin, fun hother => hnone ?other⟩
  case pin =>
    obtain ⟨ev', x, b, hev, -⟩ := hstop (e := .transport .pinDrive) hpin
    exact ⟨ev', x, b, hev⟩
  case other =>
    rintro rfl
    exact hother hrsp

/-! ### The checks that an answer can come from (R201 to R204) -/

/-- A check's error is answered only where the instruction's operation can raise it. -/
theorem FailsWith.mem_of_rsp {errs : List ErrKind} {m : Op Value} {i : Instr} {s t : State} {e : ErrKind}
    (hm : FailsWith errs m) (he : e.isCheck = true) (hrun : exec i s = runCommand i m s) (hexec : exec i s = .next t)
    (hrsp : t.rsp = some (rspWord (.err e))) : e ∈ errs := by
  obtain ⟨u, herr, -⟩ := run_of_err hrun hexec hrsp
  refine (hm _ _ _ herr).resolve_right ?_
  rintro ⟨c, rfl⟩
  cases he

theorem mem_checkErrors_of_rsp {i : Instr} {s t : State} {e : ErrKind} (he : e.isCheck = true)
    (hexec : exec i s = .next t) (hrsp : t.rsp = some (rspWord (.err e))) : e ∈ checkErrors i := by
  obtain ⟨m, hm, hrun⟩ := exec_failsWith i
  exact hm.mem_of_rsp he (hrun s) hexec hrsp

/-- A command turned away answers its error and adds nothing to the trace. -/
theorem TurnedAway.next {i : Instr} {s t : State} {e : ErrKind} (h : TurnedAway i s e) (hexec : exec i s = .next t) :
    t.rsp = some (rspWord (.err e)) ∧ t.trace = s.trace := by
  obtain rfl := Host.Outcome.next.inj (hexec.symm.trans h)
  exact ⟨rfl, rfl⟩

/-! ### `Low` (R75, R203) -/

/-- A write of `Low` to a port in range has no frame (R75). -/
theorem opWritePort_low {p : Byte} (hlo : 4 ≤ p.toNat) (hhi : p.toNat ≤ 31) :
    opWritePort .low p = raise .unsupportedLevel := by
  rw [opWritePort, checkPort_in hlo hhi]
  rfl

theorem unsupportedLevel_mem_checkErrors {i : Instr} (h : .unsupportedLevel ∈ checkErrors i) :
    ∃ x, i = .peWritePort .low x ∨ i = .peCfgOutput .low x ∨ i = .setOutput .low x := by
  have hlow {l : Level} (h : .unsupportedLevel ∈ ErrKind.illegalOutput :: levelErrors l) : l = .low := by
    cases l with
    | low => rfl
    | high | hiz => simp [levelErrors] at h
  cases i with
  | peWritePort l p => exact ⟨p, .inl (by rw [hlow h])⟩
  | peCfgOutput l p => exact ⟨p, .inr (.inl (by rw [hlow h]))⟩
  | setOutput l a => exact ⟨a, .inr (.inr (by rw [hlow h]))⟩
  | _ => simp [checkErrors] at h

/-- Settles O41: `Low` ends a port write, which comes first in an output configuration and after the selection in
`SET_OUTPUT`; no other check raises the error. -/
theorem lowIsTheOneCauseOfUnsupportedLevel : Obligations.LowIsTheOneCauseOfUnsupportedLevel := by
  refine ⟨fun p s hlo hhi => ⟨?write, ?configure⟩, fun l b k s hlo hhi hl hq => ?output, fun i s t hexec hrsp => ?only⟩
  case write =>
    refine turnedAway_of_raise (m := asUnit (opWritePort .low p)) rfl ?_
    rw [opWritePort_low hlo hhi, asUnit, andThen_raise]
  case configure =>
    refine turnedAway_of_raise (m := asUnit (opCfgOutput .low p)) rfl ?_
    rw [opCfgOutput, opWritePort_low hlo hhi, andThen_raise, asUnit, andThen_raise]
  case output =>
    have hport := toNat_enablePort hhi
    have hwrite : opWritePort .low (enablePort k) = raise .unsupportedLevel := opWritePort_low (by omega) (by omega)
    obtain ⟨u, hselect, -, hsel⟩ := opSelect_quiet (n := 0) (s := s.begin (.setOutput .low l)) .dout b hq
    have hrun : opSetOutput .low l (s.begin (.setOutput .low l)) = (.err .unsupportedLevel, u) := by
      rw [opSetOutput, locate_logical _ hlo hhi hl, andThen_ret, andThen_ok hselect, hwrite]
      rfl
    obtain ⟨t, hexec, hrsp, hlog, ⟨hbuf0, hbuf1, hcomb, hcfgtmp⟩, hlines, hchips⟩ :=
      leaves_of_run (m := asUnit (opSetOutput .low l)) rfl (andThen_err hrun)
    obtain ⟨kbuf0, kbuf1, kcomb, kcfgtmp⟩ := hsel.working
    have hselected : t.lines = s.lines.withAddress (chipAddr .dout b) := hlines.trans hsel.lines
    refine ⟨t, hexec, hrsp, by simp [State.trace, hlog, hsel.log], ?_, by rw [hselected]; rfl, by rw [hselected]; rfl,
      ⟨hbuf0.trans kbuf0, hbuf1.trans kbuf1, hcomb.trans kcomb, hcfgtmp.trans kcfgtmp⟩,
      fun hrules => (hchips hrules).trans hsel.chips⟩
    rw [Addresses, hselected, address_withAddress]
  case only => exact unsupportedLevel_mem_checkErrors (mem_checkErrors_of_rsp rfl hexec hrsp)

/-! ### Addresses in range (R161, R162) -/

/-- A logical address in range is translated, and its channel is one of the eight of a bank. -/
theorem locate_inRange {l : BitVec 8} (hl : 1 ≤ l.toNat ∧ l.toNat ≤ 48) :
    ∃ b k, bankOrdinal b = (l.toNat - 1) / 8 + 1 ∧ 1 ≤ k ∧ k ≤ 8 ∧ ∀ e, locate l e = ret (b, k) := by
  obtain ⟨b, hb⟩ := exists_bank_of_logical hl.1 hl.2
  refine ⟨b, (l.toNat - 1) % 8 + 1, hb, by omega, by omega, fun e => locate_logical e (by omega) (by omega) ?_⟩
  omega

/-! ### `IllegalInput` (R201) -/

/-- The instructions an input-side range check turns away. -/
abbrev RefusedInput (i : Instr) : Prop :=
  (∃ l : BitVec 8, i = .getInput l ∧ (l.toNat < 1 ∨ 48 < l.toNat)) ∨ ∃ k : BitVec 8, i = .diReadBit k ∧ 9 < k.toNat

theorem RefusedInput.turnedAway {i : Instr} (h : RefusedInput i) (s : State) : TurnedAway i s .illegalInput := by
  rcases h with ⟨l, rfl, hl⟩ | ⟨k, rfl, hk⟩
  · obtain ⟨-, -, hinput⟩ := logicalOutsideRangeIsTurnedAway l s hl
    exact hinput
  · refine turnedAway_of_raise (m := andThen (opReadBit k) fun b => ret (.bit b)) rfl ?_
    rw [opReadBit, Config.indexMax, decide_eq_false (by omega), require_false, andThen_raise, andThen_raise]

theorem illegalInput_mem_checkErrors {i : Instr} (h : .illegalInput ∈ checkErrors i) :
    (∃ l, i = .getInput l) ∨ ∃ k, i = .diReadBit k := by
  have hlevel (l : Level) : ErrKind.illegalInput ∉ ErrKind.illegalOutput :: levelErrors l := by cases l <;> decide
  cases i with
  | getInput l => exact .inl ⟨l, rfl⟩
  | diReadBit k => exact .inr ⟨k, rfl⟩
  | setOutput l | peWritePort l | peCfgOutput l => exact absurd h (hlevel l)
  | _ => simp [checkErrors] at h

theorem failsWith_opGetInput_inRange {l : BitVec 8} (hl : 1 ≤ l.toNat ∧ l.toNat ≤ 48) :
    FailsWith [.diParity] (opGetInput l) := by
  obtain ⟨b, k, -, -, hk, hlocate⟩ := locate_inRange hl
  have hindex : (inputIndex k).toNat ≤ 9 := by rw [toNat_inputIndex hk]; omega
  rw [opGetInput, hlocate, andThen_ret]
  exact (FailsWith.opSelect _ _).andThen fun _ => (FailsWith.opReadBit (.inl hindex) (.head _)).map levelOfBit

theorem refusedInput_of_rsp {i : Instr} {s t : State} (hexec : exec i s = .next t)
    (hrsp : t.rsp = some (rspWord (.err .illegalInput))) : RefusedInput i := by
  rcases illegalInput_mem_checkErrors (mem_checkErrors_of_rsp rfl hexec hrsp) with ⟨l, rfl⟩ | ⟨k, rfl⟩
  · refine .inl ⟨l, rfl, ?_⟩
    by_contra hin
    have hfails := (failsWith_opGetInput_inRange (l := l) (by omega)).map Value.level
    exact absurd (hfails.mem_of_rsp rfl rfl hexec hrsp) (by decide)
  · refine .inr ⟨k, rfl, ?_⟩
    by_contra hin
    have hfails := (FailsWith.opReadBit (errs := [.diParity]) (k := k) (.inl (by omega)) (.head _)).map Value.bit
    exact absurd (hfails.mem_of_rsp rfl rfl hexec hrsp) (by decide)

/-- Settles O43: only the two range checks raise the error, and they are the first thing their operations do. -/
theorem illegalInputHasTwoCauses : Obligations.IllegalInputHasTwoCauses := by
  refine fun i s => ⟨fun hcause => RefusedInput.turnedAway hcause s, fun t hexec hrsp => ?_⟩
  have hcause := refusedInput_of_rsp hexec hrsp
  obtain ⟨-, htrace⟩ := (hcause.turnedAway s).next hexec
  exact ⟨hcause, htrace⟩

/-! ### Output queries, whatever the environment does (R113, R116, R184, R185) -/

theorem regRead_cases (r : Byte) (s : State) :
    (∃ c t, regRead r s = (.err (.transport c), t)) ∨
      ∃ q a t, regRead r s = (.ok (respByte s.cfg a), t) ∧ t.cfg = s.cfg ∧
        t.log = (regReadTrace r q a).reverse ++ s.log := by
  rcases (appends_frame (readRequest r) 0x00).cases s with ⟨c, t, hreq⟩ | ⟨q, t, hreq, hcfg, hlog⟩
  · exact .inl ⟨c, t, andThen_err hreq⟩
  rcases (appends_frame 0x00 0x00).cases t with ⟨c, u, hnop⟩ | ⟨a, u, hnop, kcfg, klog⟩
  · exact .inl ⟨c, u, by rw [regRead, andThen_ok hreq, andThen_err hnop]⟩
  · refine .inr ⟨q, a, u, ?_, kcfg.trans hcfg, ?_⟩
    · rw [regRead, andThen_ok hreq, andThen_ok hnop, andThen_readCfg, kcfg, hcfg]
      rfl
    · rw [klog, hlog, regReadTrace, List.reverse_append, List.append_assoc]

theorem opReadPort_cases {p : Byte} (hlo : 4 ≤ p.toNat) (hhi : p.toNat ≤ 31) (s : State) :
    (∃ c t, opReadPort p s = (.err (.transport c), t)) ∨
      ∃ q a t, opReadPort p s = (.ok (levelRead s.cfg a), t) ∧ t.cfg = s.cfg ∧
        t.log = (regReadTrace (portReg p) q a).reverse ++ s.log := by
  rw [opReadPort, checkPort_in hlo hhi]
  rcases regRead_cases (portReg p) s with ⟨c, t, hread⟩ | ⟨q, a, t, hread, hcfg, hlog⟩
  · exact .inl ⟨c, t, andThen_err hread⟩
  · exact .inr ⟨q, a, t, andThen_ok hread, hcfg, hlog⟩

theorem readSupply_cases (s : State) :
    (∃ c t, readSupply s = (.err (.transport c), t)) ∨
      ∃ q a q' a' t, readSupply s = (.ok (outSupply s.cfg.outSupply (levelRead s.cfg a) (levelRead s.cfg a')), t) ∧
        t.cfg = s.cfg ∧ t.log = (regReadTrace 0x34 q a ++ regReadTrace 0x35 q' a').reverse ++ s.log := by
  rcases opReadPort_cases (p := 20) (by decide) (by decide) s with ⟨c, t, hread⟩ | ⟨q, a, t, hread, hcfg, hlog⟩
  · exact .inl ⟨c, t, andThen_err (andThen_err hread)⟩
  rcases opReadPort_cases (p := 21) (by decide) (by decide) t with ⟨c, u, hread'⟩ | ⟨q', a', u, hread', kcfg, klog⟩
  · refine .inl ⟨c, u, andThen_err ?_⟩
    rw [readTwo, andThen_ok hread, andThen_err hread']
  · have htwo : readTwo 20 21 s = (.ok (levelRead s.cfg a, levelRead s.cfg a'), u) := by
      rw [readTwo, andThen_ok hread, andThen_ok hread', hcfg]
      rfl
    refine .inr ⟨q, a, q', a', u, ?_, kcfg.trans hcfg, ?_⟩
    · rw [readSupply, andThen_ok htwo, andThen_readCfg, kcfg, hcfg]
      rfl
    · rw [klog, hlog, List.reverse_append, List.append_assoc]
      rfl

/-- The events of `GET_OUTPUT_STATE` up to the decoding of the supply: one selection and four frames (R185). -/
def supplyTrace (b : Bank) (q a q' a' : Byte × Byte) : List Event :=
  selectTrace (chipAddr .dout b) ++ regReadTrace 0x34 q a ++ regReadTrace 0x35 q' a'

/-- The three ways `GET_OUTPUT_STATE` of an address in range runs: an action fails, or the supply is read and is missing,
or the state port is read too. -/
theorem opGetOutputState_cases {l : BitVec 8} {b : Bank} {k : Nat} (hk : k ≤ 8)
    (hlocate : ∀ e, locate l e = ret (b, k)) (s : State) :
    (∃ c t, opGetOutputState l s = (.err (.transport c), t)) ∨
      ∃ q a q' a' t,
        (outSupply s.cfg.outSupply (levelRead s.cfg a) (levelRead s.cfg a') = .unpowered ∧
          opGetOutputState l s = (.err .illegalOutput, t) ∧ t.log = (supplyTrace b q a q' a').reverse ++ s.log) ∨
        ∃ q'' a'', outSupply s.cfg.outSupply (levelRead s.cfg a) (levelRead s.cfg a') ≠ .unpowered ∧
          opGetOutputState l s = (.ok (lineOfLevel (levelRead s.cfg a'')), t) ∧
          t.log = (supplyTrace b q a q' a' ++ regReadTrace (portReg (statePort k)) q'' a'').reverse ++ s.log := by
  have hport := toNat_statePort hk
  rw [opGetOutputState, hlocate, andThen_ret]
  rcases (appends_selectAddress (chipAddr .dout b)).cases s with ⟨c, t, hsel⟩ | ⟨_, t, hsel, hcfg, hlog⟩
  · exact .inl ⟨c, t, andThen_err hsel⟩
  replace hsel : opSelect .dout b s = (.ok (), t) := hsel
  rw [andThen_ok hsel]
  rcases readSupply_cases t with ⟨c, u, hsupply⟩ | ⟨q, a, q', a', u, hsupply, kcfg, klog⟩
  · exact .inl ⟨c, u, andThen_err hsupply⟩
  rw [hcfg] at hsupply
  rw [andThen_ok hsupply]
  have hsupplied : u.log = (supplyTrace b q a q' a').reverse ++ s.log := by
    rw [klog, hlog, supplyTrace, List.append_assoc, List.reverse_append (as := selectTrace _),
      List.append_assoc]
  by_cases hpower : outSupply s.cfg.outSupply (levelRead s.cfg a) (levelRead s.cfg a') = .unpowered
  case pos =>
    rw [decide_eq_false (not_not.2 hpower), require_false, andThen_raise]
    exact .inr ⟨q, a, q', a', u, .inl ⟨hpower, rfl, hsupplied⟩⟩
  case neg =>
    rw [decide_eq_true hpower, require_true, andThen_ret]
    rcases opReadPort_cases (p := statePort k) (by omega) (by omega) u with
      ⟨c, v, hstate⟩ | ⟨q'', a'', v, hstate, -, hvlog⟩
    · exact .inl ⟨c, v, andThen_err hstate⟩
    · rw [kcfg, hcfg] at hstate
      refine .inr ⟨q, a, q', a', v, .inr ⟨q'', a'', hpower, andThen_ok hstate, ?_⟩⟩
      rw [hvlog, hsupplied, List.reverse_append, List.append_assoc]

/-! ### `IllegalOutput` (R202) -/

theorem RefusedOutput.turnedAway {i : Instr} (h : RefusedOutput i) (s : State) : TurnedAway i s .illegalOutput := by
  cases h with
  | setOutput v l hl =>
    obtain ⟨hset, -⟩ := logicalOutsideRangeIsTurnedAway l s hl
    exact hset v
  | outputState l hl =>
    obtain ⟨-, hstate, -⟩ := logicalOutsideRangeIsTurnedAway l s hl
    exact hstate
  | writePort v p hp =>
    obtain ⟨hwrite, -⟩ := portOutsideRangeIsTurnedAway p s hp
    exact hwrite v
  | readPort p hp =>
    obtain ⟨-, hread, -⟩ := portOutsideRangeIsTurnedAway p s hp
    exact hread
  | cfgOutput v p hp =>
    obtain ⟨-, -, houtput, -⟩ := portOutsideRangeIsTurnedAway p s hp
    exact houtput v
  | cfgInput u p hp =>
    obtain ⟨-, -, -, hinput, -⟩ := portOutsideRangeIsTurnedAway p s hp
    exact hinput u
  | cfgBits bits p hp =>
    obtain ⟨-, -, -, -, hbits⟩ := portOutsideRangeIsTurnedAway p s hp
    exact hbits bits

theorem failsWith_opSetOutput_inRange {errs : List ErrKind} {v : Level} {l : BitVec 8}
    (hl : 1 ≤ l.toNat ∧ l.toNat ≤ 48) (hv : v = .low → .unsupportedLevel ∈ errs) :
    FailsWith errs (opSetOutput v l) := by
  obtain ⟨b, k, -, hpos, hk, hlocate⟩ := locate_inRange hl
  have hport := toNat_enablePort hk
  have hin : portInRange (enablePort k) = true := portInRange_of_bounds (by omega) (by omega)
  rw [opSetOutput, hlocate, andThen_ret]
  exact (FailsWith.opSelect _ _).andThen fun _ => FailsWith.opWritePort (by simp [hin]) hv

/-- An instruction whose operands are in range, `GET_OUTPUT_STATE` aside, cannot fail with `IllegalOutput`. -/
theorem exec_failsWith_inRange {i : Instr} (hin : ¬RefusedOutput i) (hstate : ∀ l, i ≠ .getOutputState l) :
    ∃ (errs : List ErrKind) (m : Op Value), .illegalOutput ∉ errs ∧ FailsWith errs m ∧
      ∀ s, exec i s = runCommand i m s := by
  have hport {p : Byte} {errs : List ErrKind} (hp : ¬(p.toNat < 4 ∨ 31 < p.toNat)) :
      portInRange p = false → ErrKind.illegalOutput ∈ errs := by
    have hrange : portInRange p = true := portInRange_of_bounds (by omega) (by omega)
    simp [hrange]
  have hlevels (l : Level) : ErrKind.illegalOutput ∉ levelErrors l := by cases l <;> decide
  have hlow (l : Level) : l = .low → ErrKind.unsupportedLevel ∈ levelErrors l := by
    rintro rfl
    decide
  obtain ⟨m, hfails, hrun⟩ := exec_failsWith i
  cases i with
  | setOutput v l =>
    have hl : ¬(l.toNat < 1 ∨ 48 < l.toNat) := fun h => hin (.setOutput v l h)
    exact ⟨_, _, hlevels v, (failsWith_opSetOutput_inRange (by omega) (hlow v)).asUnit, fun _ => rfl⟩
  | getOutputState l => exact absurd rfl (hstate l)
  | peWritePort v p =>
    have hp := hport (errs := levelErrors v) fun h => hin (.writePort v p h)
    exact ⟨_, _, hlevels v, (FailsWith.opWritePort hp (hlow v)).asUnit, fun _ => rfl⟩
  | peReadPort p =>
    have hp := hport (errs := []) fun h => hin (.readPort p h)
    exact ⟨[], _, nofun, (FailsWith.opReadPort hp).map Value.level, fun _ => rfl⟩
  | peCfgOutput v p =>
    have hp := hport (errs := levelErrors v) fun h => hin (.cfgOutput v p h)
    exact ⟨_, _, hlevels v, (FailsWith.opCfgOutput hp (hlow v)).asUnit, fun _ => rfl⟩
  | peCfgInput u p =>
    have hp := hport (errs := []) fun h => hin (.cfgInput u p h)
    exact ⟨[], _, nofun, (FailsWith.opCfgBits hp (fieldInput u)).asUnit, fun _ => rfl⟩
  | peCfgBits bits p =>
    have hp := hport (errs := []) fun h => hin (.cfgBits bits p h)
    exact ⟨[], _, nofun, (FailsWith.opCfgBits hp bits).asUnit, fun _ => rfl⟩
  | _ => exact ⟨_, m, by simp [checkErrors], hfails, hrun⟩

theorem refusedOutput_or_outputState_of_rsp {i : Instr} {s t : State} (hexec : exec i s = .next t)
    (hrsp : t.rsp = some (rspWord (.err .illegalOutput))) :
    RefusedOutput i ∨ ∃ l, i = .getOutputState l ∧ 1 ≤ l.toNat ∧ l.toNat ≤ 48 := by
  by_contra hno
  obtain ⟨hin, hstate⟩ := not_or.1 hno
  have hne (l : BitVec 8) : i ≠ .getOutputState l := by
    rintro rfl
    have hl : ¬(l.toNat < 1 ∨ 48 < l.toNat) := fun h => hin (.outputState l h)
    exact hstate ⟨l, rfl, by omega, by omega⟩
  obtain ⟨errs, m, hmem, hfails, hrun⟩ := exec_failsWith_inRange hin hne
  exact hmem (hfails.mem_of_rsp rfl (hrun s) hexec hrsp)

/-- `GET_OUTPUT_STATE` of an address in range answers `IllegalOutput` exactly when it ends at a missing supply: a failed
action is no delay, and with a supply there are more events. -/
theorem getOutputState_illegalOutput_iff {l : BitVec 8} {s t : State} (hl : 1 ≤ l.toNat ∧ l.toNat ≤ 48)
    (hexec : exec (.getOutputState l) s = .next t) :
    t.rsp = some (rspWord (.err .illegalOutput)) ↔ ∃ (b : Bank) (q a q' a' : Byte × Byte),
      bankOrdinal b = (l.toNat - 1) / 8 + 1 ∧
      outSupply s.cfg.outSupply (levelRead s.cfg a) (levelRead s.cfg a') = .unpowered ∧
      t.trace = s.trace ++ supplyTrace b q a q' a' := by
  obtain ⟨b, k, hb, -, hk, hlocate⟩ := locate_inRange hl
  have hanswer {r : Res Value} {u : State} := rsp_of_run (r := r) (u := u)
    (m := andThen (opGetOutputState l) fun v => ret (.line v)) rfl hexec
  rcases opGetOutputState_cases hk hlocate (s.begin (.getOutputState l)) with
    ⟨c, v, hrun⟩ | ⟨q, a, q', a', v, ⟨hpower, hrun, hv⟩ | ⟨q'', a'', -, hrun, hv⟩⟩
  · obtain ⟨hfailed, -⟩ := hanswer (andThen_err hrun)
    obtain ⟨r, ev, hrsp, htrace, -, hstops⟩ := exec_stopsAt hexec
    have hstop := hstops _ (eq_err_of_rsp hrsp hfailed)
    refine iff_of_false (fun h => nomatch eq_err_of_rsp hfailed h) ?_
    rintro ⟨b', q, a, q', a', -, -, htrace'⟩
    obtain rfl := List.append_cancel_left (htrace.symm.trans htrace')
    exact hstop.getLast?_ne_delay Config.settleUs rfl
  · obtain ⟨hrefused, klog⟩ := hanswer (andThen_err hrun)
    exact iff_of_true hrefused ⟨b, q, a, q', a', hb, hpower, by simp [State.trace, klog, hv]⟩
  · obtain ⟨hok, klog⟩ := hanswer (andThen_ok hrun)
    refine iff_of_false (fun h => nomatch eq_err_of_rsp hok h) ?_
    rintro ⟨b', p, c, p', c', -, -, htrace⟩
    have hlength := congrArg List.length htrace
    simp [State.trace, klog, hv, supplyTrace, selectTrace, regReadTrace, frameTrace] at hlength

/-- Settles O44: an answer of `IllegalOutput` is a range check's, or `GET_OUTPUT_STATE` ended at a missing supply. -/
theorem illegalOutputHasNoOtherCause : Obligations.IllegalOutputHasNoOtherCause := by
  refine fun i s => ⟨fun hrefused => hrefused.turnedAway s, fun t hexec => ⟨fun hrsp => ?causes, ?answers⟩⟩
  case causes =>
    rcases refusedOutput_or_outputState_of_rsp hexec hrsp with hrefused | ⟨l, rfl, hl⟩
    · obtain ⟨-, htrace⟩ := (hrefused.turnedAway s).next hexec
      exact .inl ⟨hrefused, htrace⟩
    · obtain ⟨b, q, a, q', a', hb, hpower, htrace⟩ := (getOutputState_illegalOutput_iff hl hexec).1 hrsp
      exact .inr ⟨l, b, q, a, q', a', rfl, hl.1, hl.2, hb, hpower, htrace⟩
  case answers =>
    rintro (⟨hrefused, -⟩ | ⟨l, b, q, a, q', a', rfl, hlo, hhi, hb, hpower, htrace⟩)
    · obtain ⟨hrsp, -⟩ := (hrefused.turnedAway s).next hexec
      exact hrsp
    · exact (getOutputState_illegalOutput_iff ⟨hlo, hhi⟩ hexec).2 ⟨b, q, a, q', a', hb, hpower, htrace⟩

end Sys2Proof.Machine
end

section
/-! SUPPORT. The statement of the family reset and hazards: `lines_idle` is kept wherever no `Transport` error is
answered (O52). A sequence that lowers `CS` or `LOAD` raises it again or fails with a `Transport` error, and every check
is made between such sequences. -/

namespace Sys2Proof.Machine

/-! ### What a sequence of actions does to the lines (R12 to R14) -/

/-- `m` succeeds with the lines changed by `g`, or it fails with a `Transport` error. -/
def SetsLines {α : Type} (m : Op α) (g : Lines → Lines) : Prop :=
  ∀ l, Triple (fun s => s.lines = l) m (fun _ t => t.lines = g l) (fun e _ => ∃ c, e = .transport c)

namespace SetsLines

theorem ret {α : Type} (a : α) : SetsLines (Machine.ret a) id := fun _ => triple_ret fun _ h => h

theorem andThen {α β : Type} {m : Op α} {k : α → Op β} {g h : Lines → Lines} (hm : SetsLines m g)
    (hk : ∀ a, SetsLines (k a) h) : SetsLines (andThen m k) (h ∘ g) := fun l =>
  triple_andThen (hm l) fun a => hk a (g l)

theorem drive (x : Line) (b : Bool) : SetsLines (drive x b) (Lines.set · x b) := by
  rintro _ s rfl
  rcases drive_cases x b s with ⟨t, ht, hblock, -⟩ | ⟨d, t, ht, -⟩ <;> rw [ht]
  · simp [hblock]
  · exact ⟨_, rfl⟩

theorem settle : SetsLines settle id := fun _ _ h => h

theorem xfer (t0 t1 : Byte) : SetsLines (xfer t0 t1) id := by
  rintro _ s rfl
  rcases xfer_cases t0 t1 s with ⟨r0, r1, t, ht, hblock, -⟩ | ⟨d0, d1, t, ht, -⟩ <;> rw [ht]
  · simp [hblock]
  · exact ⟨_, rfl⟩

/-! The sequences that drive lines (R102, R111, R141) -/

theorem frame (t0 t1 : Byte) : SetsLines (frame t0 t1) fun l => (l.set .cs false).set .cs true :=
  (drive .cs false).andThen fun _ => settle.andThen fun _ => (xfer t0 t1).andThen fun r => settle.andThen fun _ =>
    (drive .cs true).andThen fun _ => settle.andThen fun _ => ret r

theorem loadPulse : SetsLines loadPulse fun l => (l.set .load false).set .load true :=
  (drive .load false).andThen fun _ => settle.andThen fun _ => drive .load true

theorem selectAddress (a : ChipAddr) : SetsLines (selectAddress a) (Lines.withAddress · a) :=
  (drive .a0 _).andThen fun _ => (drive .a1 _).andThen fun _ => (drive .a2 _).andThen fun _ =>
    (drive .a3 _).andThen fun _ => settle

end SetsLines

/-! ### Operations that leave `CS` and `LOAD` high unless an action fails (R241) -/

/-- `m`, begun with the lines idle, leaves them idle or fails with a `Transport` error. -/
def KeepsIdle {α : Type} (m : Op α) : Prop :=
  Triple LinesIdle m (fun _ => LinesIdle) (fun e t => (∃ c, e = .transport c) ∨ LinesIdle t)

theorem SetsLines.keepsIdle {α : Type} {m : Op α} {g : Lines → Lines} (hm : SetsLines m g)
    (hg : ∀ l, l.cs = true ∧ l.load = true → (g l).cs = true ∧ (g l).load = true) : KeepsIdle m := by
  intro s hidle
  refine triple_weaken (hm s.lines) (fun _ h => h) (fun _ t hlines => ?_) (fun _ _ h => .inl h) s rfl
  rw [LinesIdle, hlines]
  exact hg _ hidle

namespace KeepsIdle

theorem ret {α : Type} (a : α) : KeepsIdle (ret a) := triple_ret fun _ h => h

theorem raise {α : Type} (e : ErrKind) : KeepsIdle (raise (α := α) e) := triple_raise fun _ h => .inr h

theorem andThen {α β : Type} {m : Op α} {k : α → Op β} (hm : KeepsIdle m) (hk : ∀ a, KeepsIdle (k a)) :
    KeepsIdle (andThen m k) := triple_andThen hm hk

theorem losing {α : Type} {m : Op α} (r : Byte) (hm : KeepsIdle m) : KeepsIdle (onError m (loseRegister r)) :=
  triple_onError hm fun _ s h => h.imp_right fun hidle => by simpa [LinesIdle, loseRegister_same] using hidle

theorem writeComb (c : Word) : KeepsIdle (writeComb c) := fun _ h => h

theorem writeCfgtmp (v : Byte) : KeepsIdle (writeCfgtmp v) := fun _ h => h

theorem readCfg : KeepsIdle readCfg := fun _ h => h

theorem map {α β : Type} {m : Op α} (hm : KeepsIdle m) (f : α → β) :
    KeepsIdle (Machine.andThen m fun a => Machine.ret (f a)) := hm.andThen fun _ => ret _

theorem asUnit {α : Type} {m : Op α} (hm : KeepsIdle m) : KeepsIdle (Machine.asUnit m) := hm.map fun _ => Value.unit

theorem require (ok : Bool) (e : ErrKind) : KeepsIdle (require ok e) :=
  triple_require (fun _ _ h => h) fun _ _ h => .inr h

theorem forEach {α : Type} {f : α → Op Unit} (hf : ∀ x, KeepsIdle (f x)) (xs : List α) : KeepsIdle (forEach xs f) :=
  triple_forEach xs fun x _ => hf x

/-! The shared sequences (R102, R111 to R113, R121, R141) -/

theorem frame (t0 t1 : Byte) : KeepsIdle (frame t0 t1) := (SetsLines.frame t0 t1).keepsIdle fun _ h => ⟨rfl, h.2⟩

theorem loadPulse : KeepsIdle loadPulse := SetsLines.loadPulse.keepsIdle fun _ h => ⟨h.1, rfl⟩

theorem opSelect (d : Direction) (b : Bank) : KeepsIdle (opSelect d b) :=
  (SetsLines.selectAddress (chipAddr d b)).keepsIdle fun _ h => h

theorem regWrite (r v : Byte) : KeepsIdle (regWrite r v) := (frame r v).map fun _ => ()

theorem cfgWrite (r v : Byte) : KeepsIdle (cfgWrite r v) := (regWrite r v).losing r

theorem regRead (r : Byte) : KeepsIdle (regRead r) :=
  (frame _ _).andThen fun _ => (frame _ _).andThen fun resp => readCfg.map fun cfg => respByte cfg resp

theorem readFrame : KeepsIdle readFrame :=
  loadPulse.andThen fun _ => (frame _ _).andThen fun _ => (writeComb _).andThen fun _ => readCfg.andThen fun _ =>
    (require _ _).andThen fun _ => (require _ _).map fun _ => _

/-! The operations of the components (R115, R116, R121 to R124, R146) -/

theorem checkPort (p : Byte) : KeepsIdle (checkPort p) := require _ _

theorem opWritePort (l : Level) (p : Byte) : KeepsIdle (opWritePort l p) := by
  refine (checkPort p).andThen fun _ => ?_
  cases levelData? l with
  | none => exact raise _
  | some data => exact regWrite _ data

theorem opReadPort (p : Byte) : KeepsIdle (opReadPort p) :=
  (checkPort p).andThen fun _ => (regRead _).map levelOfByte

theorem opCfgBits (bits : BitVec 2) (p : Byte) : KeepsIdle (opCfgBits bits p) :=
  (checkPort p).andThen fun _ => (regRead _).andThen fun _ => (writeCfgtmp _).andThen fun _ =>
    (writeCfgtmp _).andThen fun _ => cfgWrite _ _

theorem opCfgOutput (l : Level) (p : Byte) : KeepsIdle (opCfgOutput l p) :=
  (opWritePort l p).andThen fun _ => opCfgBits _ p

theorem opReadBit (index : Byte) : KeepsIdle (opReadBit index) :=
  (require _ _).andThen fun _ => readFrame.map fun c => c.getLsbD index.toNat

/-! The operation layer (R161, R181 to R188) -/

theorem locate (l : Byte) (e : ErrKind) : KeepsIdle (locate l e) := by
  refine (require _ _).andThen fun _ => ?_
  cases bankOfOrdinal? (logicalBankOrdinal l) with
  | none => exact raise e
  | some b => exact ret _

theorem opInit : KeepsIdle opInit :=
  forEach (fun b => (opSelect .dout b).andThen fun _ => (forEach (opCfgOutput .hiz) _).andThen fun _ =>
    (forEach (opCfgBits _) _).andThen fun _ => (forEach (opCfgBits _) _).andThen fun _ =>
      (forEach (opCfgBits _) _).andThen fun _ => readCfg.andThen fun _ => regWrite _ _) allBanks

theorem opSetOutput (l : Level) (a : Byte) : KeepsIdle (opSetOutput l a) :=
  (locate a _).andThen fun _ => (opSelect _ _).andThen fun _ => opWritePort l _

theorem readTwo (p q : Byte) : KeepsIdle (readTwo p q) :=
  (opReadPort p).andThen fun l => (opReadPort q).map fun m => (l, m)

theorem readSupply : KeepsIdle readSupply :=
  (readTwo 20 21).andThen fun ls => readCfg.map fun cfg => outSupply cfg.outSupply ls.1 ls.2

theorem opGetOutputState (a : Byte) : KeepsIdle (opGetOutputState a) :=
  (locate a _).andThen fun _ => (opSelect _ _).andThen fun _ => readSupply.andThen fun _ =>
    (require _ _).andThen fun _ => (opReadPort _).map lineOfLevel

theorem opGetOutputSupply (b : Bank) : KeepsIdle (opGetOutputSupply b) :=
  (opSelect _ _).andThen fun _ => readSupply.map outSupplyState

theorem opGetOutputThermal (b : Bank) : KeepsIdle (opGetOutputThermal b) :=
  (opSelect _ _).andThen fun _ => (readTwo 22 23).andThen fun ls => readCfg.map fun cfg =>
    outThermal cfg.outThermal ls.1 ls.2

/-- The input queries: a selection and one bit of a frame read (R186 to R188). -/
theorem selectReadBit {α : Type} (b : Bank) (k : Byte) (f : Bool → α) :
    KeepsIdle (Machine.andThen (Machine.opSelect .din b) fun _ =>
      Machine.andThen (Machine.opReadBit k) fun x => Machine.ret (f x)) :=
  (opSelect .din b).andThen fun _ => (opReadBit k).map f

theorem opGetInput (a : Byte) : KeepsIdle (opGetInput a) :=
  (locate a _).andThen fun bk => selectReadBit bk.1 _ levelOfBit

end KeepsIdle

/-- Every instruction runs an operation that leaves the lines idle or fails with a `Transport` error. -/
theorem exec_keepsIdle (i : Instr) : ∃ m : Op Value, KeepsIdle m ∧ ∀ s, exec i s = runCommand i m s := by
  have hframe (t0 t1 : Byte) : KeepsIdle (asUnit (frame t0 t1)) := (KeepsIdle.frame t0 t1).asUnit
  have hselect (d : Direction) (b : Bank) : KeepsIdle (asUnit (opSelect d b)) := (KeepsIdle.opSelect d b).asUnit
  cases i with
  | init => exact ⟨_, KeepsIdle.opInit.asUnit, fun _ => rfl⟩
  | setOutput l a => exact ⟨_, (KeepsIdle.opSetOutput l a).asUnit, fun _ => rfl⟩
  | getOutputState a => exact ⟨_, (KeepsIdle.opGetOutputState a).map Value.line, fun _ => rfl⟩
  | getOutputSupply b => exact ⟨_, (KeepsIdle.opGetOutputSupply b).map Value.supply, fun _ => rfl⟩
  | getOutputThermal b => exact ⟨_, (KeepsIdle.opGetOutputThermal b).map Value.thermal, fun _ => rfl⟩
  | getInput a => exact ⟨_, (KeepsIdle.opGetInput a).map Value.level, fun _ => rfl⟩
  | getInputSupply b => exact ⟨_, (KeepsIdle.selectReadBit b _ inSupply).map Value.supply, fun _ => rfl⟩
  | getInputThermal b => exact ⟨_, (KeepsIdle.selectReadBit b _ inThermal).map Value.thermal, fun _ => rfl⟩
  | peWritePort l p => exact ⟨_, (KeepsIdle.opWritePort l p).asUnit, fun _ => rfl⟩
  | peReadPort p => exact ⟨_, (KeepsIdle.opReadPort p).map Value.level, fun _ => rfl⟩
  | peCfgOutput l p => exact ⟨_, (KeepsIdle.opCfgOutput l p).asUnit, fun _ => rfl⟩
  | peCfgInput u p => exact ⟨_, (KeepsIdle.opCfgBits (fieldInput u) p).asUnit, fun _ => rfl⟩
  | peCfgBits bits p => exact ⟨_, (KeepsIdle.opCfgBits bits p).asUnit, fun _ => rfl⟩
  | peWakeup u => exact ⟨_, (KeepsIdle.regWrite _ _).asUnit, fun _ => rfl⟩
  | diReadBit k => exact ⟨_, (KeepsIdle.opReadBit k).map Value.bit, fun _ => rfl⟩
  | fCfgWrite q c => exact ⟨_, (KeepsIdle.cfgWrite _ _).asUnit, fun _ => rfl⟩
  | direq16 => exact ⟨_, KeepsIdle.readFrame.asUnit, fun _ => rfl⟩
  | fPortWrite | fPortReadReq | fNop | fCfgReadReq | fGcfgWrite => exact ⟨_, hframe _ _, fun _ => rfl⟩
  | select d b => exact ⟨_, hselect d b, fun _ => rfl⟩
  | selOut1 | selOut2 | selOut3 | selOut4 | selOut5 | selOut6 => exact ⟨_, hselect .dout _, fun _ => rfl⟩
  | selIn1 | selIn2 | selIn3 | selIn4 | selIn5 | selIn6 => exact ⟨_, hselect .din _, fun _ => rfl⟩

/-- Settles O52: the instruction's operation leaves the lines idle unless its error is one of the two `Transport`
errors, whose words are the two excluded ones. -/
theorem linesStayIdleWithoutTransportError : Obligations.LinesStayIdleWithoutTransportError := by
  intro i s t hidle hexec hbus hpin
  obtain ⟨m, hm, hrun⟩ := exec_keepsIdle i
  have hleft := hm (s.begin i) hidle
  rcases hu : m (s.begin i) with ⟨r, u⟩
  obtain ⟨t', hexec', hrsp, -, -, hlines, -⟩ := leaves_of_run (hrun s) hu
  obtain rfl := Host.Outcome.next.inj (hexec'.symm.trans hexec)
  rw [LinesIdle, hlines]
  rw [hu] at hleft
  cases r with
  | ok v => exact hleft
  | err e =>
    refine hleft.resolve_left ?_
    rintro ⟨c, rfl⟩
    cases c with
    | busExchange => exact hbus hrsp
    | pinDrive => exact hpin hrsp

end Sys2Proof.Machine
end
